-- ==== Sys2Proof/Word.lean ====
section
/-! DEFINITION. The word types of the core and the names of its three sample buffers. -/

namespace Sys2Proof

/-- One byte of a frame, a buffer or a sink write (20_memory.md R60 to R65). -/
abbrev Byte := BitVec 8

/-- A 16-bit two's-complement sample (20_memory.md R63). -/
abbrev Sample := BitVec 16

/-- A binary32 value as its 32 bits (00_scope.md R8). -/
abbrev F32 := BitVec 32

/-- A 32-bit operation word (30_encoding.md R90). -/
abbrev Word := BitVec 32

/-- The three sample buffers (20_memory.md R60). -/
inductive Buf
  | inBuf
  | bassBuf
  | midBuf
deriving DecidableEq, Repr

end Sys2Proof
end

