-- ==== Sys2Proof/Config.lean ====
section
/-! DEFINITION. The implementation parameters of 00_scope.md R7, and the values the spec leaves open, as constants
without a body. -/

namespace Sys2Proof.Config

/-! ## The normative parameters (00_scope.md R7) -/

/-- `ALPHA`, the smoothing coefficient of C1. -/
def alpha : F32 := 0x3D23D70A#32
/-- `OMA = fp_sub(1.0, ALPHA)`, the coefficient (1 - alpha). -/
def oma : F32 := 0x3F75C28F#32
/-- `CAP_SAMPLES`, the capacity of a sample buffer. -/
def capSamples : Nat := 4096
/-- `CAP_BYTES`, the byte-length limit of a frame. -/
def capBytes : Nat := 8192
/-- `GAIN_A`, both gains of preset A (`PARTY = 0`). -/
def gainA : F32 := 0x3E99999A#32
/-- `GAIN_B`, both gains of preset B (`PARTY = 1`). -/
def gainB : F32 := 0x3F800000#32
/-- `VOL_MAX`. -/
def volMax : Nat := 127
/-- `VOL_CTRL_MAX`, the top of the controller scale. -/
def volCtrlMax : Nat := 500
/-- `POLL_MS`, the nominal poll period of E and B, kept by H (60_exceptions.md R259). -/
def pollMs : Nat := 10
/-- `ENC_T1`. -/
def encT1 : Nat := 50
/-- `ENC_T2`. -/
def encT2 : Nat := 120
/-- `ENC_T3`. -/
def encT3 : Nat := 300
/-- `ENC_S1`. -/
def encS1 : Nat := 5
/-- `ENC_S2`. -/
def encS2 : Nat := 3
/-- `ENC_S3`. -/
def encS3 : Nat := 2
/-- `ENC_S4`. -/
def encS4 : Nat := 1
/-- `CLICK_GAP_MS`. -/
def clickGapMs : Nat := 400
/-- `LONG_PRESS_MS`. -/
def longPressMs : Nat := 3000
/-- `CLICK_SAT`. -/
def clickSat : Nat := 255
/-- `TIME_BITS`, the width of the millisecond time base. -/
def timeBits : Nat := 32
/-- `SAMPLE_RATE` in Hz: informative only, no rule reads it (00_scope.md R7, 40_lpf.md R128). -/
def sampleRate : Nat := 44100

/-! ## Open values: no body, so nothing can be proved of them beyond their type -/

/-- `VOL_RESET`, the OPEN reset value of `VOL` in [0, 127] (70_reset_and_hazards.md R281). Log 1. -/
opaque volReset : BitVec 7
/-- `POWER_RESET`, the OPEN reset value of `POWER_ON` (70_reset_and_hazards.md R281). Log 2. -/
opaque powerReset : Bool
/-- `a0` of the reset that leads to `State.reset`: the level of encoder line A then (30_encoding.md R101). Log 3. -/
opaque lineAAtReset : Bool
/-- The unspecified contents of the buffers after the n-th RESET: one free byte per counter value, buffer and byte
offset (10_state.md R27, R28: "unspecified"). Log 4. -/
opaque freeBufByte : Nat → Buf → Nat → Byte
/-- Which of a held FRAME (`true`) and a held MUTE (`false`) is served first, where H orders nothing
(60_exceptions.md R263 leaves it open). Log 8. -/
opaque heldPick : Nat → Bool
/-- The sign bit and the low 22 fraction bits of a NaN result, which IEEE 754 does not fix. Log 13. -/
opaque nanBits : F32 → F32 → BitVec 23
/-- `trunc16` outside its domain (00_scope.md R10 defines it on [-32768.0, 32767.0] only). Log 14. -/
opaque truncUnstated : F32 → Sample

end Sys2Proof.Config
end

