-- ==== Sys2Proof/Syntax.lean ====
section
/-! DEFINITION. The instructions: one constructor per row of spec/opcode_table.json; and the signals by which they
reach a unit. -/

namespace Sys2Proof

/-- Every operation of the core. A level or a status bit is a `Bool`: `true` = high = 1 (30_encoding.md R100). -/
inductive Instr
  /-- FRAME `LEN`: a frame of LEN bytes, its bytes on the frame data port (42_pipeline.md R151). -/
  | frame (len : BitVec 24)
  /-- MUTE (42_pipeline.md R156). -/
  | mute
  /-- BASS_ACK (42_pipeline.md R154). -/
  | bassAck
  /-- MID_ACK (42_pipeline.md R155). -/
  | midAck
  /-- LPF_CLEAR (42_pipeline.md R157). -/
  | lpfClear
  /-- ENC_START `a` (43_encoder.md R181). -/
  | encStart (a : Bool)
  /-- ENC_STOP (43_encoder.md R182). -/
  | encStop
  /-- ENC_POLL `a, b` (43_encoder.md R186). -/
  | encPoll (a b : Bool)
  /-- BTN_POLL `L`: 1 = released, 0 = pressed (44_button.md R201). -/
  | btnPoll (l : Bool)
  /-- VOL_SET_ABS `V` (45_shared_ports.md R231). -/
  | volSetAbs (v : BitVec 16)
  /-- NOTIFY_ARM (45_shared_ports.md R232). -/
  | notifyArm
  /-- PLAY_STATUS `P` (45_shared_ports.md R233). -/
  | playStatus (p : Bool)
  /-- TICK_MS `D` (45_shared_ports.md R234). -/
  | tickMs (d : BitVec 24)
  /-- RESET `a0`, the pin (70_reset_and_hazards.md R280). -/
  | reset (a0 : Bool)
  /-- C1.HOLD, `lpf_ctl = 00` (40_lpf.md R123). -/
  | c1Hold
  /-- C1.STEP with operand `x`, `lpf_ctl = 01` (40_lpf.md R121). -/
  | c1Step (x : F32)
  /-- C1.CLEAR, `lpf_ctl = 10` (40_lpf.md R122). -/
  | c1Clear
  /-- BAND_EVAL with operand `x`, `band_we = 1`; `lp_y` and `PARTY` are read from their registers
  (41_band_stage.md R130, R132). -/
  | bandEval (x : F32)
  /-- SAMPLE_STEP, P's self-step (42_pipeline.md R153). -/
  | sampleStep
deriving DecidableEq, Repr

/-- What reaches a unit of the core: an operation word, the RESET pin with its input `a0`, C1's control with its operand,
C2's strobe with its operand, or P's own step (30_encoding.md R90, R101 to R104). -/
inductive Signal
  | opw (w : Word)
  | resetPin (asserted a0 : Bool)
  | lpfCtl (ctl : BitVec 2) (x : F32)
  | bandWe (we : Bool) (x : F32)
  | selfStep
deriving DecidableEq, Repr

/-- Why a signal spells no operation. -/
inductive Reject
  /-- `OP` is in the reserved opcode space (30_encoding.md R93). -/
  | reservedOp
  /-- A legal `OP` with a nonzero reserved `ARG` bit (30_encoding.md R93). -/
  | reservedArg
  /-- `lpf_ctl = 11` (40_lpf.md R124). -/
  | lpfCtlReserved
  /-- The line is inactive and asks for nothing: `band_we = 0` "writes nothing" (30_encoding.md R103), RESET released. -/
  | inactive
deriving DecidableEq, Repr

/-- The mnemonic of spec/opcode_table.json. -/
def Instr.mnemonic : Instr → String
  | .frame _ => "FRAME"
  | .mute => "MUTE"
  | .bassAck => "BASS_ACK"
  | .midAck => "MID_ACK"
  | .lpfClear => "LPF_CLEAR"
  | .encStart _ => "ENC_START"
  | .encStop => "ENC_STOP"
  | .encPoll _ _ => "ENC_POLL"
  | .btnPoll _ => "BTN_POLL"
  | .volSetAbs _ => "VOL_SET_ABS"
  | .notifyArm => "NOTIFY_ARM"
  | .playStatus _ => "PLAY_STATUS"
  | .tickMs _ => "TICK_MS"
  | .reset _ => "RESET"
  | .c1Hold => "C1.HOLD"
  | .c1Step _ => "C1.STEP"
  | .c1Clear => "C1.CLEAR"
  | .bandEval _ => "BAND_EVAL"
  | .sampleStep => "SAMPLE_STEP"

end Sys2Proof
end

