-- ==== Sys2Proof/WellFormed.lean ====
section
/-! DEFINITION. Well-formed instructions. The widths of the operand fields (30_encoding.md R91) are in the types; what is
left to check is that a binary32 operand is a number: "No NaN or infinity can reach these primitives" (00_scope.md R10). -/

namespace Sys2Proof

/-- The exponent field is not all ones: neither a NaN nor an infinity. -/
def isFiniteF32 (x : F32) : Bool := x.extractLsb' 23 8 != 0xFF#8

/-- The well-formedness check of an instruction. -/
def Instr.wellFormed : Instr → Bool
  | .c1Step x => isFiniteF32 x
  | .bandEval x => isFiniteF32 x
  | .frame _ => true
  | .mute => true
  | .bassAck => true
  | .midAck => true
  | .lpfClear => true
  | .encStart _ => true
  | .encStop => true
  | .encPoll _ _ => true
  | .btnPoll _ => true
  | .volSetAbs _ => true
  | .notifyArm => true
  | .playStatus _ => true
  | .tickMs _ => true
  | .reset _ => true
  | .c1Hold => true
  | .c1Clear => true
  | .sampleStep => true

end Sys2Proof
end

