-- ==== Sys2Proof/Decode.lean ====
section
/-! DEFINITION. Decoding (30_encoding.md R90 to R94, R101 to R104), total on every signal and rejecting by name; then the
encoder; then the operation map as a table (R92). -/

namespace Sys2Proof

/-- `OP`, bits 31:24 (30_encoding.md R90). -/
def opField (w : Word) : BitVec 8 := w.extractLsb' 24 8

/-- `ARG`, bits 23:0 (30_encoding.md R90). -/
def argField (w : Word) : BitVec 24 := w.extractLsb' 0 24

/-- `i` if the reserved operand bits are 0, else rejected (30_encoding.md R93). -/
def ifReservedZero (zero : Bool) (i : Instr) : Except Reject Instr :=
  if zero then .ok i else .error .reservedArg

/-- The decode function of 30_encoding.md R94. -/
def decodeWord (w : Word) : Except Reject Instr :=
  let op := opField w
  let arg := argField w
  let noBits := arg == 0#24
  let noBitsAbove0 := arg.extractLsb' 1 23 == 0#23
  let noBitsAbove1 := arg.extractLsb' 2 22 == 0#22
  let noBitsAbove15 := arg.extractLsb' 16 8 == 0#8
  if op = 0x10#8 then .ok (.frame arg)
  else if op = 0x11#8 then ifReservedZero noBits .mute
  else if op = 0x12#8 then ifReservedZero noBits .bassAck
  else if op = 0x13#8 then ifReservedZero noBits .midAck
  else if op = 0x14#8 then ifReservedZero noBits .lpfClear
  else if op = 0x20#8 then ifReservedZero noBitsAbove0 (.encStart (arg.getLsbD 0))
  else if op = 0x21#8 then ifReservedZero noBits .encStop
  else if op = 0x22#8 then ifReservedZero noBitsAbove1 (.encPoll (arg.getLsbD 0) (arg.getLsbD 1))
  else if op = 0x30#8 then ifReservedZero noBitsAbove0 (.btnPoll (arg.getLsbD 0))
  else if op = 0x40#8 then ifReservedZero noBitsAbove15 (.volSetAbs (arg.extractLsb' 0 16))
  else if op = 0x41#8 then ifReservedZero noBits .notifyArm
  else if op = 0x42#8 then ifReservedZero noBitsAbove0 (.playStatus (arg.getLsbD 0))
  else if op = 0x50#8 then .ok (.tickMs arg)
  else .error .reservedOp

/-- The operation a signal asks for. -/
def decode : Signal → Except Reject Instr
  | .opw w => decodeWord w
  | .resetPin asserted a0 => if asserted then .ok (.reset a0) else .error .inactive
  | .lpfCtl ctl x =>
    if ctl = 0#2 then .ok .c1Hold
    else if ctl = 1#2 then .ok (.c1Step x)
    else if ctl = 2#2 then .ok .c1Clear
    else .error .lpfCtlReserved
  | .bandWe we x => if we then .ok (.bandEval x) else .error .inactive
  | .selfStep => .ok .sampleStep

/-! ## The encoder -/

/-- An operation word from its two fields (30_encoding.md R90). -/
def opWord (op : BitVec 8) (arg : BitVec 24) : Word := op ++ arg

/-- A one-bit operand in `ARG[0]`. -/
def bitArg (b : Bool) : BitVec 24 := 0#23 ++ BitVec.ofBool b

/-- The signal of an instruction: its operation word (30_encoding.md R91, R105), or its pin, control code or strobe. -/
def encode : Instr → Signal
  | .frame len => .opw (opWord 0x10#8 len)
  | .mute => .opw (opWord 0x11#8 0#24)
  | .bassAck => .opw (opWord 0x12#8 0#24)
  | .midAck => .opw (opWord 0x13#8 0#24)
  | .lpfClear => .opw (opWord 0x14#8 0#24)
  | .encStart a => .opw (opWord 0x20#8 (bitArg a))
  | .encStop => .opw (opWord 0x21#8 0#24)
  | .encPoll a b => .opw (opWord 0x22#8 (0#22 ++ BitVec.ofBool b ++ BitVec.ofBool a))
  | .btnPoll l => .opw (opWord 0x30#8 (bitArg l))
  | .volSetAbs v => .opw (opWord 0x40#8 (0#8 ++ v))
  | .notifyArm => .opw (opWord 0x41#8 0#24)
  | .playStatus p => .opw (opWord 0x42#8 (bitArg p))
  | .tickMs d => .opw (opWord 0x50#8 d)
  | .reset a0 => .resetPin true a0
  | .c1Hold => .lpfCtl 0#2 0#32
  | .c1Step x => .lpfCtl 1#2 x
  | .c1Clear => .lpfCtl 2#2 0#32
  | .bandEval x => .bandWe true x
  | .sampleStep => .selfStep

/-! ## The operation map as a table -/

/-- One row of the operation map (30_encoding.md R92). -/
structure OpRow where
  mnemonic : String
  value : Word
  mask : Word
deriving DecidableEq, Repr

/-- "A word matches a row when `(word & mask) = match`" (30_encoding.md R92). -/
def OpRow.fits (r : OpRow) (w : Word) : Bool := w &&& r.mask == r.value

/-- The operation map (30_encoding.md R92). -/
def opcodeMap : List OpRow :=
  [⟨"FRAME", 0x10000000#32, 0xFF000000#32⟩,
   ⟨"MUTE", 0x11000000#32, 0xFFFFFFFF#32⟩,
   ⟨"BASS_ACK", 0x12000000#32, 0xFFFFFFFF#32⟩,
   ⟨"MID_ACK", 0x13000000#32, 0xFFFFFFFF#32⟩,
   ⟨"LPF_CLEAR", 0x14000000#32, 0xFFFFFFFF#32⟩,
   ⟨"ENC_START", 0x20000000#32, 0xFFFFFFFE#32⟩,
   ⟨"ENC_STOP", 0x21000000#32, 0xFFFFFFFF#32⟩,
   ⟨"ENC_POLL", 0x22000000#32, 0xFFFFFFFC#32⟩,
   ⟨"BTN_POLL", 0x30000000#32, 0xFFFFFFFE#32⟩,
   ⟨"VOL_SET_ABS", 0x40000000#32, 0xFFFF0000#32⟩,
   ⟨"NOTIFY_ARM", 0x41000000#32, 0xFFFFFFFF#32⟩,
   ⟨"PLAY_STATUS", 0x42000000#32, 0xFFFFFFFE#32⟩,
   ⟨"TICK_MS", 0x50000000#32, 0xFF000000#32⟩]

/-! ## What the host asks of the decoder -/

/-- The first `nbits` bits of `w` as one operation word, if they fit in it. -/
def tableWord (nbits w : Nat) : Option Word :=
  let bits := w % 2 ^ nbits
  if bits < 2 ^ 32 then some (BitVec.ofNat 32 bits) else none

/-- The instruction the decoder reads from an operation word whose bits are `w`. Operation words are delivered whole
(20_memory.md R68), so no byte order enters. -/
def decodeTableWord (nbits w : Nat) : Option Instr :=
  match tableWord nbits w with
  | none => none
  | some v =>
    match decodeWord v with
    | .ok i => some i
    | .error _ => none

end Sys2Proof
end

