-- ==== Sys2Proof/Machine/State.lean ====
section
/-! DEFINITION. The state of the core: every register of 10_state.md R51, the ports, the output history, and the model's own
fields for what the spec leaves open; the reasons a step stops; the state after reset. -/

namespace Sys2Proof.Machine

/-- A byte buffer: (byte offset, byte) pairs with strictly rising offsets. An offset that is not listed holds no specified
byte (`Memory.wf` in Machine/Ops.lean; 10_state.md R27, R28). -/
abbrev Memory := List Host.Cell

/-- `PSTATE`, a 2-bit register with no unused value (10_state.md R22). -/
inductive PState
  | idle
  | compute
  | wrBass
  | wrMid
deriving DecidableEq, Repr

/-- `BSTATE`, a 2-bit register; the value 3 is reserved and never written (10_state.md R44). -/
inductive BState
  | idle
  | pressed
  | awaitRelease
  | reserved
deriving DecidableEq, Repr

/-- The two sinks (30_encoding.md R96). -/
inductive Sink
  | bass
  | mid
deriving DecidableEq, Repr

/-- The remote commands (30_encoding.md R97). -/
inductive CmdCode
  | play
  | pause
  | next
  | prev
deriving DecidableEq, Repr

/-- The phase of a remote command (30_encoding.md R97). -/
inductive Phase
  | press
  | release
deriving DecidableEq, Repr

/-- The session calls (30_encoding.md R98). -/
inductive SessionOp
  | start
  | stop
deriving DecidableEq, Repr

/-- An output event (30_encoding.md R96). -/
inductive Output
  | sinkWrite (sink : Sink) (bytes : List Byte)
  | notify (value : Byte)
  | cmd (code : CmdCode) (phase : Phase)
  | session (op : SessionOp)
deriving DecidableEq, Repr

/-- A FRAME word that the audio source's port keeps, with its data bytes (42_pipeline.md R150, 30_encoding.md R95). -/
structure FrameCall where
  len : BitVec 24
  data : List Byte
deriving DecidableEq, Repr

/-- One entry of the order in which the agents step (60_exceptions.md R263). Log 5. -/
inductive Event
  /-- H issues an operation word, with the bytes it presents on the frame data port. -/
  | issue (w : Word) (data : List Byte)
  /-- H pulses RESET with line A at level `a0` (30_encoding.md R101, R105). -/
  | resetPulse (a0 : Bool)
  /-- P's turn: SAMPLE_STEP. -/
  | pSelf
  /-- The audio source's port tries its oldest kept FRAME again. -/
  | resumeFrame
  /-- The session layer's port tries a kept MUTE again. -/
  | resumeMute
deriving DecidableEq, Repr

/-- The core has no fault outcome (00_scope.md R6, 60_exceptions.md R250): the type is empty, so no meaning raises one. -/
inductive Fault : Type
deriving DecidableEq, Repr

/-- Why a step is refused (00_scope.md R6, 60_exceptions.md R252). Each refusal errs toward unprovable: safe. -/
inductive Refusal
  /-- Raised by an arm of `exec` whose instruction has no meaning yet. Safe. -/
  | notModelled (mnemonic : String)
  /-- Raised by `step` on a word with a reserved `OP` (30_encoding.md R93). Safe. -/
  | reservedOp
  /-- Raised by `step` on a word with a nonzero reserved `ARG` bit (30_encoding.md R93). Safe. -/
  | reservedArg
  /-- Raised by `runSignal` on `lpf_ctl = 11`, which C3 never drives (40_lpf.md R124). Safe. -/
  | lpfCtlReserved
  /-- Raised by BASS_ACK outside `P_WR_BASS` (42_pipeline.md R154). Safe. -/
  | strayBassAck
  /-- Raised by MID_ACK outside `P_WR_MID` (42_pipeline.md R155). Safe. -/
  | strayMidAck
  /-- Raised by BTN_POLL on `BSTATE = 3` (10_state.md R44). Safe. -/
  | bstateReserved
  /-- Raised by SAMPLE_STEP and BAND_EVAL on a `PIDX` or `PN` outside its legal values (10_state.md R23, R24, R49). Safe; log 11. -/
  | illegalIndex
  /-- Raised by BASS_ACK on a `PWLEN` outside its legal values (10_state.md R26, R49). Safe; log 11. -/
  | illegalPwlen
  /-- Raised by FRAME when it is presented with another number of bytes than LEN (30_encoding.md R95). Safe; log 15. -/
  | frameDataMismatch
deriving DecidableEq, Repr

/-- The state. The name of each register is that of 10_state.md R51 in lower camel case. -/
structure State where
  /-- `PSTATE` (R22). -/
  pstate : PState
  /-- `PN` (R23). -/
  pn : BitVec 13
  /-- `PIDX` (R24). -/
  pidx : BitVec 13
  /-- `PVF` (R25). -/
  pvf : F32
  /-- `PWLEN` (R26). -/
  pwlen : BitVec 14
  /-- `IN_BUF` (R27). -/
  inBuf : Memory
  /-- `BASS_BUF` (R28). -/
  bassBuf : Memory
  /-- `MID_BUF` (R28). -/
  midBuf : Memory
  /-- `LP_Y` (R29). -/
  lpY : F32
  /-- `VOL`, bits 6..0 of the 8-bit register: bit 7 is always 0 (R32). Log 12. -/
  vol : BitVec 7
  /-- `PARTY` (R33). -/
  party : Bool
  /-- `IS_PLAYING` (R34). -/
  isPlaying : Bool
  /-- `NOTIFY_ARMED` (R35). -/
  notifyArmed : Bool
  /-- `POWER_ON` (R36). -/
  powerOn : Bool
  /-- `TIME_MS` (R37). -/
  timeMs : BitVec 32
  /-- `ENC_RUN` (R40). -/
  encRun : Bool
  /-- `ENC_PREV_A` (R41). -/
  encPrevA : Bool
  /-- `ENC_LAST_EDGE` (R42). -/
  encLastEdge : BitVec 32
  /-- `ENC_VOL`, bits 6..0 of the 8-bit register (R43). Log 12. -/
  encVol : BitVec 7
  /-- `BSTATE` (R44). -/
  bstate : BState
  /-- `B_CLICKS` (R45). -/
  bClicks : BitVec 8
  /-- `B_LAST_CLICK` (R46). -/
  bLastClick : BitVec 32
  /-- `B_PRESS_START` (R47). -/
  bPressStart : BitVec 32
  /-- The bytes presented on the frame data port (30_encoding.md R95). -/
  dataPort : List Byte
  /-- The FRAMEs the audio source's port keeps, oldest first (42_pipeline.md R150). -/
  heldFrames : List FrameCall
  /-- How many MUTEs the session layer's port keeps (42_pipeline.md R150). -/
  heldMutes : Nat
  /-- The steps still to come, next first (60_exceptions.md R263). The model's own; log 5. -/
  agenda : List Event
  /-- The output history, oldest first (00_scope.md R11). -/
  history : List Output
  /-- The counter of the buffers' free contents. The model's own; log 4. -/
  freeBuf : Nat
  /-- The counter of the free choices between held words. The model's own; log 8. -/
  freePick : Nat
deriving DecidableEq, Repr

/-- The state right after reset (70_reset_and_hazards.md R281), with nothing issued, nothing held and no event emitted yet. -/
def State.reset : State where
  pstate := .idle
  pn := 0
  pidx := 0
  pvf := 0
  pwlen := 0
  inBuf := []
  bassBuf := []
  midBuf := []
  lpY := 0
  vol := Config.volReset
  party := false
  isPlaying := false
  notifyArmed := false
  powerOn := Config.powerReset
  timeMs := 0
  encRun := true
  encPrevA := Config.lineAAtReset
  encLastEdge := 0
  encVol := Config.volReset
  bstate := .idle
  bClicks := 0
  bLastClick := 0
  bPressStart := 0
  dataPort := []
  heldFrames := []
  heldMutes := 0
  agenda := []
  history := []
  freeBuf := 0
  freePick := 0

end Sys2Proof.Machine
end

