-- ==== Sys2Proof/Machine/Float.lean ====
section
/-! DEFINITION. The binary32 primitives of 00_scope.md R8 and R10. A finite binary32 value is an integer multiple of 2^-149,
so each operation is computed exactly as an integer or a fraction in that unit and rounded once, to nearest with ties to
even. Log 20.

A large literal stands on the left of a product: `Nat` multiplication recurs on its right factor, and a comparison of two
unequal terms by `rfl` would otherwise unfold it step by step. -/

namespace Sys2Proof.Machine

/-- The sign bit. -/
def fpSign (a : F32) : Bool := a.msb

/-- The exponent field. -/
def fpExp (a : F32) : Nat := (a.extractLsb' 23 8).toNat

/-- The fraction field. -/
def fpFrac (a : F32) : Nat := (a.extractLsb' 0 23).toNat

/-- The value is a NaN. -/
def fpIsNaN (a : F32) : Bool := fpExp a == 255 && fpFrac a != 0

/-- The value is an infinity. -/
def fpIsInf (a : F32) : Bool := fpExp a == 255 && fpFrac a == 0

/-- Neither a NaN nor an infinity. -/
def fpIsFinite (a : F32) : Bool := fpExp a != 255

/-- The magnitude in units of 2^-149; of an infinity, a magnitude above every finite one. -/
def fpMag (a : F32) : Nat :=
  if fpExp a = 0 then fpFrac a else (2 ^ 23 + fpFrac a) * 2 ^ (fpExp a - 1)

/-- The value in units of 2^-149. -/
def fpVal (a : F32) : Int := if fpSign a then -(fpMag a : Int) else (fpMag a : Int)

/-- The exponent and fraction fields of +infinity. -/
def infBits : Nat := 0x7F800000

/-- `num / den` rounded to the nearest integer, ties to even. -/
def roundHalfEven (num den : Nat) : Nat :=
  let q := num / den
  let r := num % den
  if 2 * r < den then q
  else if den < 2 * r then q + 1
  else q + q % 2

/-- The exponent and fraction fields of the binary32 magnitude nearest to `num / den` units of 2^-149: `ulp` is the number
of units between neighbours there, as a power of two. A magnitude above the largest finite one rounds to infinity. -/
def roundMag (num den : Nat) : Nat :=
  let ulpLog := Nat.log2 (num / den) - 23
  min (2 ^ 23 * ulpLog + roundHalfEven num (den * 2 ^ ulpLog)) infBits

/-- A binary32 value from its sign and its exponent and fraction fields. -/
def fpPack (neg : Bool) (mag : Nat) : F32 := BitVec.ofNat 32 ((if neg then 2 ^ 31 else 0) + mag)

/-- A quiet NaN whose sign and payload the model leaves free (log 13). -/
def fpNaN (a b : F32) : F32 :=
  let free := Config.nanBits a b
  free.extractLsb' 22 1 ++ 0xFF#8 ++ 1#1 ++ free.extractLsb' 0 22

/-- The value with its sign bit flipped. -/
def fpNeg (a : F32) : F32 := a ^^^ 0x80000000#32

/-- `fp_of_int(n)` (R10). -/
def fpOfInt (n : Int) : F32 := fpPack (decide (n < 0)) (roundMag (2 ^ 149 * n.natAbs) 1)

/-- `fp_add(a,b)` (R8, R10). An exact zero sum is -0.0 only if both operands are negative. -/
def fpAdd (a b : F32) : F32 :=
  if fpIsNaN a || fpIsNaN b then fpNaN a b
  else if fpIsInf a then (if fpIsInf b && (fpSign a != fpSign b) then fpNaN a b else a)
  else if fpIsInf b then b
  else
    let v := fpVal a + fpVal b
    if v = 0 then fpPack (fpSign a && fpSign b) 0
    else fpPack (decide (v < 0)) (roundMag v.natAbs 1)

/-- `fp_sub(a,b)` (R8, R10). -/
def fpSub (a b : F32) : F32 := fpAdd a (fpNeg b)

/-- `fp_mul(a,b)` (R8, R10). -/
def fpMul (a b : F32) : F32 :=
  let neg := fpSign a != fpSign b
  if fpIsNaN a || fpIsNaN b then fpNaN a b
  else if fpIsInf a || fpIsInf b then
    (if fpMag a = 0 || fpMag b = 0 then fpNaN a b else fpPack neg infBits)
  else fpPack neg (roundMag (fpMag a * fpMag b) (2 ^ 149))

/-- `fp_div(a,b)` (R8, R10). -/
def fpDiv (a b : F32) : F32 :=
  let neg := fpSign a != fpSign b
  if fpIsNaN a || fpIsNaN b then fpNaN a b
  else if fpIsInf a then (if fpIsInf b then fpNaN a b else fpPack neg infBits)
  else if fpIsInf b then fpPack neg 0
  else if fpMag b = 0 then (if fpMag a = 0 then fpNaN a b else fpPack neg infBits)
  else fpPack neg (roundMag (2 ^ 149 * fpMag a) (fpMag b))

/-- `fp_lt(a,b)`: false when an operand is a NaN (R10). -/
def fpLt (a b : F32) : Bool := !fpIsNaN a && !fpIsNaN b && decide (fpVal a < fpVal b)

/-- `fp_min(a,b)` (R10). -/
def fpMin (a b : F32) : F32 := if fpLt b a then b else a

/-- 1.0 -/
def fpOne : F32 := 0x3F800000#32
/-- 500.0 -/
def fp500 : F32 := 0x43FA0000#32
/-- 32767.0 -/
def fpMax16 : F32 := 0x46FFFE00#32
/-- -32768.0 -/
def fpMin16 : F32 := 0xC7000000#32

/-- `clip16(v)` (R10). -/
def clip16 (v : F32) : F32 :=
  if fpLt v fpMin16 then fpMin16
  else if fpLt fpMax16 v then fpMax16
  else v

/-- `trunc16(v)`: the integer part of `v`, rounded toward zero (R10). Outside the domain R10 gives it, a free value (log 14). -/
def trunc16 (v : F32) : Sample :=
  if !fpIsNaN v && decide (fpVal fpMin16 ≤ fpVal v) && decide (fpVal v ≤ fpVal fpMax16) then
    BitVec.ofInt 16 ((fpVal v).tdiv (2 ^ 149))
  else Config.truncUnstated v

/-- `narrow16(v)` (R10, 41_band_stage.md R133). -/
def narrow16 (v : F32) : Sample := trunc16 (clip16 v)

end Sys2Proof.Machine
end

