-- ==== Sys2Proof/Machine/Ops.lean ====
section
/-! DEFINITION. The named operations over buffers, ports, history and `VOL`. The core takes no exception and returns from
none (60_exceptions.md R250, R255), so there is no such operation here. -/

namespace Sys2Proof.Machine

/-! ## Byte buffers -/

/-- The canonical form of a buffer: strictly rising offsets. An unlisted offset has no specified byte, so no listed byte
equals what an unlisted one holds. -/
abbrev Memory.wf (m : Memory) : Prop := m.Pairwise (fun c d => c.1 < d.1)

/-- The specified byte at an offset, if it has one. -/
def Memory.byteAt : Memory → Nat → Option Byte
  | [], _ => none
  | (k, v) :: rest, a => if k = a then some v else Memory.byteAt rest a

/-- Consecutive cells from an offset on. -/
def Memory.cellsFrom : Nat → List Byte → Memory
  | _, [] => []
  | a, b :: bs => (a, b) :: Memory.cellsFrom (a + 1) bs

/-- Writes the bytes `bs` from offset `base` on. -/
def Memory.writeBlock (m : Memory) (base : Nat) (bs : List Byte) : Memory :=
  m.filter (fun c => c.1 < base) ++ Memory.cellsFrom base bs ++ m.filter (fun c => base + bs.length ≤ c.1)

/-- Every listed offset exists in a buffer of 8192 bytes (20_memory.md R61). -/
abbrev Memory.inRange (m : Memory) : Prop := ∀ c ∈ m, c.1 < Config.capBytes

/-! ## Samples as bytes (20_memory.md R62 to R65) -/

/-- Little-endian bytes to samples; an odd last byte is ignored (20_memory.md R64, R67). -/
def samplesOf : List Byte → List Sample
  | lo :: hi :: rest => (hi ++ lo) :: samplesOf rest
  | _ => []

/-- Samples to little-endian bytes (20_memory.md R65). -/
def bytesOf : List Sample → List Byte
  | [] => []
  | v :: vs => v.extractLsb' 0 8 :: v.extractLsb' 8 8 :: bytesOf vs

/-! ## The three sample buffers -/

/-- The contents of a buffer. -/
def State.buf (s : State) : Buf → Memory
  | .inBuf => s.inBuf
  | .bassBuf => s.bassBuf
  | .midBuf => s.midBuf

/-- Replaces the contents of a buffer. -/
def State.setBuf (s : State) (b : Buf) (m : Memory) : State :=
  match b with
  | .inBuf => { s with inBuf := m }
  | .bassBuf => { s with bassBuf := m }
  | .midBuf => { s with midBuf := m }

/-- One byte of a buffer; an offset nothing has written since the last RESET reads as a free value (10_state.md R27, R28). -/
def State.readByte (s : State) (b : Buf) (off : Nat) : Byte :=
  (Memory.byteAt (s.buf b) off).getD (Config.freeBufByte s.freeBuf b off)

/-- `B[i] = MemRead(B, 2*i, 2) = B.byte[2i+1] ++ B.byte[2i]` (20_memory.md R62). -/
def State.readSample (s : State) (b : Buf) (i : Nat) : Sample :=
  s.readByte b (2 * i + 1) ++ s.readByte b (2 * i)

/-- `B[i] <- v` for consecutive samples from index `i` on: MemWrite at byte offset `2*i` (20_memory.md R62). -/
def State.storeSamples (s : State) (b : Buf) (i : Nat) (vs : List Sample) : State :=
  s.setBuf b (Memory.writeBlock (s.buf b) (2 * i) (bytesOf vs))

/-- `bytes_le(B, k)` (20_memory.md R65). -/
def State.bytesLE (s : State) (b : Buf) (k : Nat) : List Byte :=
  bytesOf ((List.range k).map (s.readSample b))

/-! ## Output events, `VOL` and held words -/

/-- `emit E`: appends output events to the history, in order (00_scope.md R11). -/
def State.emit (s : State) (es : List Output) : State := { s with history := s.history ++ es }

/-- The 8-bit register `VOL`: bit 7 is always 0 (10_state.md R32). -/
def State.volByte (s : State) : Byte := s.vol.setWidth 8

/-- The 8-bit register `ENC_VOL` (10_state.md R43). -/
def State.encVolByte (s : State) : Byte := s.encVol.setWidth 8

/-- One atomic write of `VOL` (20_memory.md R70). -/
def State.writeVol (s : State) (v : BitVec 7) : State := { s with vol := v }

/-- The audio source's port keeps a FRAME word and its data (42_pipeline.md R150). -/
def State.holdFrame (s : State) (len : BitVec 24) : State :=
  { s with heldFrames := s.heldFrames ++ [⟨len, s.dataPort⟩] }

/-- The session layer's port keeps a MUTE word (42_pipeline.md R150). -/
def State.holdMute (s : State) : State := { s with heldMutes := s.heldMutes + 1 }

/-- Writes `LP_Y`. -/
def State.writeLpY (s : State) (v : F32) : State := { s with lpY := v }

/-- What a signal that spells no operation does: an inactive line asks for nothing (30_encoding.md R103; log 21), the rest
is refused by name (30_encoding.md R93, 40_lpf.md R124). -/
def rejected (r : Reject) (s : State) : Host.Outcome State Fault Refusal :=
  match r with
  | .reservedOp => .refused .reservedOp
  | .reservedArg => .refused .reservedArg
  | .lpfCtlReserved => .refused .lpfCtlReserved
  | .inactive => .next s

end Sys2Proof.Machine
end

