-- ==== Sys2Proof/Machine/Operands.lean ====
section
/-! DEFINITION. What the operations compute from their operands: the volume factor, the filter and the two bands, the encoder's
step, direction and clamp, the button's counter and gap, and the encodings of registers and output events. -/

namespace Sys2Proof.Machine

/-! ## Volume -/

/-- `scaled = (v * VOL_CTRL_MAX) div VOL_MAX` (42_pipeline.md R152). -/
def volScaled (v : BitVec 7) : Nat := Config.volCtrlMax * v.toNat / Config.volMax

/-- `vol_factor(v)` (42_pipeline.md R152). -/
def volFactor (v : BitVec 7) : F32 := fpMin fpOne (fpDiv (fpOfInt (volScaled v)) fp500)

/-- `min(V, VOL_MAX)` (45_shared_ports.md R231). -/
def satVol (v : BitVec 16) : BitVec 7 := BitVec.ofNat 7 (min v.toNat Config.volMax)

/-! ## C1 and C2 -/

/-- `x = fp_mul(fp_of_int(s), PVF)` (42_pipeline.md R153). -/
def scaleSample (v : Sample) (pvf : F32) : F32 := fpMul (fpOfInt v.toInt) pvf

/-- The new value of `LP_Y` (40_lpf.md R121). -/
def filterNext (x lp : F32) : F32 := fpAdd (fpMul Config.alpha x) (fpMul Config.oma lp)

/-- The gain pair (GB, GM) (41_band_stage.md R131). -/
def gains (party : Bool) : F32 × F32 :=
  if party then (Config.gainB, Config.gainB) else (Config.gainA, Config.gainA)

/-- `bass16` (41_band_stage.md R132). -/
def bass16 (x : F32) (party : Bool) : Sample := narrow16 (fpMul x (gains party).1)

/-- `mid16` (41_band_stage.md R132). -/
def mid16 (x lp : F32) (party : Bool) : Sample := narrow16 (fpMul (fpSub x lp) (gains party).2)

/-! ## Encoder -/

/-- `enc_step(delta)` (43_encoder.md R183). -/
def encStep (delta : BitVec 32) : Nat :=
  if delta.toNat < Config.encT1 then Config.encS1
  else if delta.toNat < Config.encT2 then Config.encS2
  else if delta.toNat < Config.encT3 then Config.encS3
  else Config.encS4

/-- `enc_up(a, b)` (43_encoder.md R184). -/
def encUp (a b : Bool) : Bool := b != a

/-- `enc_next(v, step, up)` (43_encoder.md R185). -/
def encNext (v : BitVec 7) (step : Nat) (up : Bool) : BitVec 7 :=
  BitVec.ofNat 7
    (if up then (if v.toNat + step > Config.volMax then Config.volMax else v.toNat + step)
     else (if step > v.toNat then 0 else v.toNat - step))

/-! ## Button -/

/-- `sat_inc(c)` (44_button.md R209). -/
def satInc (c : BitVec 8) : BitVec 8 := if c.toNat = Config.clickSat then c else c + 1#8

/-- `(now - t) mod 2^32` (00_scope.md R9). -/
def elapsed (now t : BitVec 32) : Nat := (now - t).toNat

/-! ## Encodings of registers and output events -/

/-- The 2-bit code of `PSTATE` (10_state.md R22). -/
def PState.code : PState → BitVec 2
  | .idle => 0#2
  | .compute => 1#2
  | .wrBass => 2#2
  | .wrMid => 3#2

/-- The 2-bit code of `BSTATE` (10_state.md R44). -/
def BState.code : BState → BitVec 2
  | .idle => 0#2
  | .pressed => 1#2
  | .awaitRelease => 2#2
  | .reserved => 3#2

/-- `BASS` = 0, `MID` = 1 (30_encoding.md R96). -/
def Sink.code : Sink → BitVec 1
  | .bass => 0#1
  | .mid => 1#1

/-- The 3-bit command code (30_encoding.md R97). -/
def CmdCode.code : CmdCode → BitVec 3
  | .play => 1#3
  | .pause => 2#3
  | .next => 3#3
  | .prev => 4#3

/-- 0 = press, 1 = release (30_encoding.md R97). -/
def Phase.code : Phase → BitVec 1
  | .press => 0#1
  | .release => 1#1

/-- The `Cmd` byte: `cmd[2:0] = code`, `cmd[3] = phase`, `cmd[7:4] = 0` (30_encoding.md R97). -/
def cmdByte (c : CmdCode) (p : Phase) : Byte := 0#4 ++ p.code ++ c.code

/-- `Session` codes (30_encoding.md R98). -/
def SessionOp.code : SessionOp → Nat
  | .start => 1
  | .stop => 2

end Sys2Proof.Machine
end

