-- ==== Sys2Proof/Machine/Flags.lean ====
section
/-! DEFINITION. The flags of the core (10_state.md R48) with what the button decoder does to them, and the two output lines. -/

namespace Sys2Proof.Machine

/-- The mode-indicator line: `IND_OUT = PARTY` (10_state.md R38). -/
def State.indOut (s : State) : Bool := s.party

/-- The power-relay line: `RELAY_OUT = POWER_ON` (10_state.md R38). -/
def State.relayOut (s : State) : Bool := s.powerOn

/-- `pressed` of the source: `BSTATE != B_IDLE` (10_state.md R47). -/
def State.pressed (s : State) : Bool := s.bstate != .idle

/-- `remote_cmd(k)`: a press and a release in the same step (44_button.md R204). -/
def remoteCmd (k : CmdCode) (s : State) : State := s.emit [.cmd k .press, .cmd k .release]

/-- `play_pause()` (44_button.md R203). -/
def playPause (s : State) : State :=
  { remoteCmd (if s.isPlaying then .pause else .play) s with isPlaying := !s.isPlaying }

/-- `party_toggle()` (44_button.md R205). -/
def partyToggle (s : State) : State := { s with party := !s.party }

/-- `power_toggle()` (44_button.md R207): the session call follows the new value. -/
def powerToggle (s : State) : State :=
  { s with powerOn := !s.powerOn }.emit [.session (if !s.powerOn then .start else .stop)]

/-- `click_dispatch(c)` (44_button.md R202); five clicks or more dispatch nothing (R206). -/
def clickDispatch (c : Nat) (s : State) : State :=
  if c = 1 then playPause s
  else if c = 2 then remoteCmd .next s
  else if c = 3 then remoteCmd .prev s
  else if c = 4 then partyToggle s
  else s

end Sys2Proof.Machine
end

