-- ==== Sys2Proof/Machine/Button.lean ====
section
/-! DEFINITION. C6, the multi-click and long-press button decoder (44_button.md). -/

namespace Sys2Proof.Machine

/-- More than CLICK_GAP_MS since the last press (44_button.md R201). -/
def State.gapOver (s : State) : Bool := decide (Config.clickGapMs < elapsed s.timeMs s.bLastClick)

/-- More than LONG_PRESS_MS since the press began (44_button.md R201). -/
def State.holdOver (s : State) : Bool := decide (Config.longPressMs < elapsed s.timeMs s.bPressStart)

/-- Test (1) of `B_IDLE`: the timeout dispatch of a pending gesture (44_button.md R201). -/
def State.timeoutDispatch (s : State) : State :=
  if 0 < s.bClicks.toNat && s.gapOver then { clickDispatch s.bClicks.toNat s with bClicks := 0 } else s

/-- Test (2) of `B_IDLE`: a new press (44_button.md R201). -/
def State.newPress (s : State) : State :=
  { s with
    bClicks := satInc (if s.gapOver then 0 else s.bClicks)
    bLastClick := s.timeMs
    bPressStart := s.timeMs
    bstate := .pressed }

/-- A poll in `B_IDLE`: test (1), then test (2) (44_button.md R201). -/
def State.pollIdle (l : Bool) (s : State) : State := if l then s.timeoutDispatch else s.timeoutDispatch.newPress

/-- A poll in `B_PRESSED`: the release first, then the long press (44_button.md R201). -/
def State.pollPressed (l : Bool) (s : State) : State :=
  if l then { s with bstate := .idle }
  else if s.holdOver then { powerToggle s with bstate := .awaitRelease }
  else s

/-- A poll in `B_AWAIT_RELEASE` (44_button.md R208). -/
def State.pollAwait (l : Bool) (s : State) : State :=
  if l then { s with bClicks := 0, bstate := .idle } else s

/-- BTN_POLL `L` (44_button.md R201). -/
def execBtnPoll (l : Bool) (s : State) : Host.Outcome State Fault Refusal :=
  match s.bstate with
  | .awaitRelease => .next (s.pollAwait l)
  | .pressed => .next (s.pollPressed l)
  | .idle => .next (s.pollIdle l)
  | .reserved => .refused .bstateReserved

end Sys2Proof.Machine
end

