-- ==== Sys2Proof/Machine/Encoder.lean ====
section
/-! DEFINITION. C5, the quadrature encoder decoder (43_encoder.md). -/

namespace Sys2Proof.Machine

/-- ENC_START `a` (43_encoder.md R181). -/
def execEncStart (a : Bool) (s : State) : Host.Outcome State Fault Refusal :=
  .next { s with encRun := true, encPrevA := a, encLastEdge := 0, encVol := s.vol }

/-- ENC_STOP (43_encoder.md R182). -/
def execEncStop (s : State) : Host.Outcome State Fault Refusal := .next { s with encRun := false }

/-- The volume an edge to the levels `a`, `b` sets (43_encoder.md R183 to R187). -/
def State.edgeVol (a b : Bool) (s : State) : BitVec 7 :=
  encNext s.encVol (encStep (s.timeMs - s.encLastEdge)) (encUp a b)

/-- An armed notification fires once, with the value just written to `VOL` (43_encoder.md R186, 45_shared_ports.md R230). -/
def State.fireNotify (s : State) : State :=
  { s.emit (if s.notifyArmed then [.notify s.volByte] else []) with notifyArmed := false }

/-- What an edge of line A does: time, `VOL`, `ENC_VOL`, then the notification (43_encoder.md R186). -/
def State.encEdge (a b : Bool) (s : State) : State :=
  let v := s.edgeVol a b
  { s.writeVol v with encLastEdge := s.timeMs, encVol := v }.fireNotify

/-- One poll of a running encoder (43_encoder.md R186). -/
def State.pollEncoder (a b : Bool) (s : State) : State :=
  { (if a != s.encPrevA then s.encEdge a b else s) with encPrevA := a }

/-- ENC_POLL `a, b` (43_encoder.md R186). -/
def execEncPoll (a b : Bool) (s : State) : Host.Outcome State Fault Refusal :=
  .next (if s.encRun then s.pollEncoder a b else s)

end Sys2Proof.Machine
end

