-- ==== Sys2Proof/Machine/Filter.lean ====
section
/-! DEFINITION. C1, the single-pole low-pass filter (40_lpf.md). -/

namespace Sys2Proof.Machine

/-- `LP_Y` takes the filter's next value for the input `x` (40_lpf.md R121). -/
def State.clockFilter (x : F32) (s : State) : State := s.writeLpY (filterNext x s.lpY)

/-- `LP_Y <- +0.0` (40_lpf.md R122). -/
def State.clearFilter (s : State) : State := s.writeLpY 0#32

/-- C1.HOLD: `LP_Y` is unchanged (40_lpf.md R123). -/
def execC1Hold (s : State) : Host.Outcome State Fault Refusal := .next s

/-- C1.STEP (40_lpf.md R121). -/
def execC1Step (x : F32) (s : State) : Host.Outcome State Fault Refusal := .next (s.clockFilter x)

/-- C1.CLEAR (40_lpf.md R122). -/
def execC1Clear (s : State) : Host.Outcome State Fault Refusal := .next s.clearFilter

end Sys2Proof.Machine
end

