-- ==== Sys2Proof/Machine/Band.lean ====
section
/-! DEFINITION. C2, the two-band gain and clip stage (41_band_stage.md). -/

namespace Sys2Proof.Machine

/-- The two results of C2 for the input `x`, written at `PIDX` (41_band_stage.md R130, R132). -/
def State.writeBands (x : F32) (s : State) : State :=
  (s.storeSamples .bassBuf s.pidx.toNat [bass16 x s.party]).storeSamples .midBuf s.pidx.toNat [mid16 x s.lpY s.party]

/-- BAND_EVAL (41_band_stage.md R132). A `PIDX` at which no buffer element exists is refused (10_state.md R49, log 11). -/
def execBandEval (x : F32) (s : State) : Host.Outcome State Fault Refusal :=
  if s.pidx.toNat < Config.capSamples then .next (s.writeBands x) else .refused .illegalIndex

end Sys2Proof.Machine
end

