-- ==== Sys2Proof/Machine/Pipeline.lean ====
section
/-! DEFINITION. C3, the audio frame pipeline (42_pipeline.md). -/

namespace Sys2Proof.Machine

/-! ## FRAME -/

/-- `n = LEN >> 1`, the number of whole samples (42_pipeline.md R151). -/
def frameSamples (len : BitVec 24) : Nat := len.toNat >>> 1

/-- The effect of an accepted frame: latch the samples and the volume factor, and start computing (42_pipeline.md R151). -/
def State.acceptFrame (len : BitVec 24) (s : State) : State :=
  { s.storeSamples .inBuf 0 (samplesOf s.dataPort) with
    pvf := volFactor s.vol
    pn := BitVec.ofNat 13 (frameSamples len)
    pidx := 0
    pstate := .compute }

/-- FRAME `LEN` (42_pipeline.md R151), as P meets it: the port gives P its oldest word (`issueWord`, log 7). -/
def execFrame (len : BitVec 24) (s : State) : Host.Outcome State Fault Refusal :=
  match s.pstate with
  | .idle =>
    if Config.capBytes < len.toNat then .next s
    else if frameSamples len = 0 then .next s
    else if s.dataPort.length = len.toNat then .next (s.acceptFrame len)
    else .refused .frameDataMismatch
  | _ => .next (s.holdFrame len)

/-! ## MUTE and the sink handshake -/

/-- The effect of a mute: zero both working buffers and offer the bass buffer (42_pipeline.md R156). -/
def State.startMute (s : State) : State :=
  let zeros := List.replicate Config.capSamples 0#16
  let z := (s.storeSamples .bassBuf 0 zeros).storeSamples .midBuf 0 zeros
  { z with pwlen := BitVec.ofNat 14 (2 * Config.capSamples), pstate := .wrBass }.emit
    [.sinkWrite .bass (z.bytesLE .bassBuf Config.capSamples)]

/-- MUTE (42_pipeline.md R156), as P meets it (`issueWord`, log 7). -/
def execMute (s : State) : Host.Outcome State Fault Refusal :=
  match s.pstate with
  | .idle => .next s.startMute
  | _ => .next s.holdMute

/-- The values `PWLEN` has while a sink write is offered: an even byte count of 2 to 8192 (10_state.md R26, 30_encoding.md R96). -/
def legalPwlen (n : Nat) : Bool := n % 2 == 0 && decide (2 ≤ n) && decide (n ≤ Config.capBytes)

/-- The bass sink has the whole buffer: the mid buffer is offered (42_pipeline.md R154). -/
def State.offerMid (s : State) : State :=
  { s with pstate := .wrMid }.emit [.sinkWrite .mid (s.bytesLE .midBuf (s.pwlen.toNat / 2))]

/-- BASS_ACK (42_pipeline.md R154). -/
def execBassAck (s : State) : Host.Outcome State Fault Refusal :=
  match s.pstate with
  | .wrBass => if legalPwlen s.pwlen.toNat then .next s.offerMid else .refused .illegalPwlen
  | _ => .refused .strayBassAck

/-- MID_ACK: the call returns (42_pipeline.md R155). -/
def execMidAck (s : State) : Host.Outcome State Fault Refusal :=
  match s.pstate with
  | .wrMid => .next { s with pstate := .idle }
  | _ => .refused .strayMidAck

/-! ## LPF_CLEAR -/

/-- LPF_CLEAR: drives C1.CLEAR in every `PSTATE` (42_pipeline.md R157). -/
def execLpfClear (s : State) : Host.Outcome State Fault Refusal := .next s.clearFilter

/-! ## SAMPLE_STEP -/

/-- `PIDX <- PIDX + 1`, and after the last sample the bass buffer is offered (42_pipeline.md R153). -/
def State.advance (s : State) : State :=
  if s.pidx + 1#13 = s.pn then
    { s with pidx := s.pidx + 1#13, pwlen := BitVec.ofNat 14 (2 * s.pn.toNat), pstate := .wrBass }.emit
      [.sinkWrite .bass (s.bytesLE .bassBuf s.pn.toNat)]
  else { s with pidx := s.pidx + 1#13 }

/-- `x`, the volume-scaled sample at `PIDX` (42_pipeline.md R153). -/
def State.sampleInput (s : State) : F32 := scaleSample (s.readSample .inBuf s.pidx.toNat) s.pvf

/-- The indices of a frame in flight: `PIDX` in [0, PN) and `PN` in [1, 4096] (10_state.md R23, R24). -/
def State.legalIndex (s : State) : Bool :=
  decide (s.pidx.toNat < s.pn.toNat) && decide (s.pn.toNat ≤ Config.capSamples)

/-- One sample: C1.STEP, then BAND_EVAL, then the index (42_pipeline.md R153, 60_exceptions.md R254). At `PVF` = 0.0 the mid
band is what this pseudocode gives, not always 0. DEDUCED: R153's corner case says otherwise. Log 24. -/
def State.computeSample (s : State) : State := ((s.clockFilter s.sampleInput).writeBands s.sampleInput).advance

/-- SAMPLE_STEP (42_pipeline.md R153). It is enabled in `P_COMPUTE` only; elsewhere P waits (00_scope.md R6, log 10). -/
def execSampleStep (s : State) : Host.Outcome State Fault Refusal :=
  match s.pstate with
  | .compute => if s.legalIndex then .next s.computeSample else .refused .illegalIndex
  | _ => .next s

/-! ## The controls C3 drives (30_encoding.md R102, R103) -/

/-- `lpf_ctl` as an instruction drives it: 01 in a SAMPLE_STEP that is taken, 10 in LPF_CLEAR and at RESET, its own code in a
C1 operation, and 00 at every other time (30_encoding.md R102). -/
def lpfCtlDriven (i : Instr) (s : State) : BitVec 2 :=
  match i with
  | .sampleStep => if s.pstate = .compute then 1#2 else 0#2
  | .c1Step _ => 1#2
  | .lpfClear | .reset _ | .c1Clear => 2#2
  | .frame _ | .mute | .bassAck | .midAck | .encStart _ | .encStop | .encPoll _ _ | .btnPoll _ | .volSetAbs _ | .notifyArm
  | .playStatus _ | .tickMs _ | .c1Hold | .bandEval _ => 0#2

/-- `band_we` as an instruction drives it: 1 only in a SAMPLE_STEP that is taken and in BAND_EVAL itself
(30_encoding.md R103). -/
def bandWeDriven (i : Instr) (s : State) : Bool :=
  match i with
  | .sampleStep => s.pstate == .compute
  | .bandEval _ => true
  | .frame _ | .mute | .bassAck | .midAck | .lpfClear | .encStart _ | .encStop | .encPoll _ _ | .btnPoll _ | .volSetAbs _
  | .notifyArm | .playStatus _ | .tickMs _ | .reset _ | .c1Hold | .c1Step _ | .c1Clear => false

/-- The operand `x` of C1 and C2 while an instruction runs. -/
def stageOperand (i : Instr) (s : State) : F32 :=
  match i with
  | .c1Step x => x
  | .bandEval x => x
  | .frame _ | .mute | .bassAck | .midAck | .lpfClear | .encStart _ | .encStop | .encPoll _ _ | .btnPoll _ | .volSetAbs _
  | .notifyArm | .playStatus _ | .tickMs _ | .reset _ | .c1Hold | .c1Clear | .sampleStep => s.sampleInput

end Sys2Proof.Machine
end

