-- ==== Sys2Proof/Machine/Ports.lean ====
section
/-! DEFINITION. C4 and the host ports (45_shared_ports.md). -/

namespace Sys2Proof.Machine

/-- VOL_SET_ABS `V` (45_shared_ports.md R231). -/
def execVolSetAbs (v : BitVec 16) (s : State) : Host.Outcome State Fault Refusal := .next (s.writeVol (satVol v))

/-- NOTIFY_ARM (45_shared_ports.md R232). -/
def execNotifyArm (s : State) : Host.Outcome State Fault Refusal := .next { s with notifyArmed := true }

/-- PLAY_STATUS `P` (45_shared_ports.md R233). -/
def execPlayStatus (p : Bool) (s : State) : Host.Outcome State Fault Refusal := .next { s with isPlaying := p }

/-- TICK_MS `D`: `TIME_MS <- (TIME_MS + D) mod 2^32` (45_shared_ports.md R234). -/
def execTickMs (d : BitVec 24) (s : State) : Host.Outcome State Fault Refusal :=
  .next { s with timeMs := s.timeMs + d.setWidth 32 }

end Sys2Proof.Machine
end

