-- ==== Sys2Proof/Machine/Reset.lean ====
section
/-! DEFINITION. RESET (70_reset_and_hazards.md R280, R281). -/

namespace Sys2Proof.Machine

/-- Every register takes its reset value; the buffers' contents become unspecified anew; the output history stays (R280).
What H has at its ports and has still to issue is no register and stays (log 9). -/
def State.resetRegisters (a0 : Bool) (s : State) : State where
  pstate := .idle
  pn := 0
  pidx := 0
  pvf := 0
  pwlen := 0
  inBuf := []
  bassBuf := []
  midBuf := []
  lpY := 0
  vol := Config.volReset
  party := false
  isPlaying := false
  notifyArmed := false
  powerOn := Config.powerReset
  timeMs := 0
  encRun := true
  encPrevA := a0
  encLastEdge := 0
  encVol := Config.volReset
  bstate := .idle
  bClicks := 0
  bLastClick := 0
  bPressStart := 0
  dataPort := s.dataPort
  heldFrames := s.heldFrames
  heldMutes := s.heldMutes
  agenda := s.agenda
  history := s.history
  freeBuf := s.freeBuf + 1
  freePick := s.freePick

/-- RESET `a0` (70_reset_and_hazards.md R280). -/
def execReset (a0 : Bool) (s : State) : Host.Outcome State Fault Refusal := .next (s.resetRegisters a0)

end Sys2Proof.Machine
end

