-- ==== Sys2Proof/Machine/Dispatch.lean ====
section
/-! DEFINITION. One arm per instruction. -/

namespace Sys2Proof.Machine

def exec (i : Instr) (s : State) : Host.Outcome State Fault Refusal :=
  match i with
  | .frame len => Sys2Proof.Machine.execFrame len s
  | .mute => Sys2Proof.Machine.execMute s
  | .bassAck => Sys2Proof.Machine.execBassAck s
  | .midAck => Sys2Proof.Machine.execMidAck s
  | .lpfClear => Sys2Proof.Machine.execLpfClear s
  | .encStart a => Sys2Proof.Machine.execEncStart a s
  | .encStop => Sys2Proof.Machine.execEncStop s
  | .encPoll a b => Sys2Proof.Machine.execEncPoll a b s
  | .btnPoll l => Sys2Proof.Machine.execBtnPoll l s
  | .volSetAbs v => Sys2Proof.Machine.execVolSetAbs v s
  | .notifyArm => Sys2Proof.Machine.execNotifyArm s
  | .playStatus p => Sys2Proof.Machine.execPlayStatus p s
  | .tickMs d => Sys2Proof.Machine.execTickMs d s
  | .reset a0 => Sys2Proof.Machine.execReset a0 s
  | .c1Hold => Sys2Proof.Machine.execC1Hold s
  | .c1Step x => Sys2Proof.Machine.execC1Step x s
  | .c1Clear => Sys2Proof.Machine.execC1Clear s
  | .bandEval x => Sys2Proof.Machine.execBandEval x s
  | .sampleStep => Sys2Proof.Machine.execSampleStep s

end Sys2Proof.Machine
end

