-- ==== Sys2Proof/Machine/Schedule.lean ====
section
/-! DEFINITION. Which step comes next (60_exceptions.md R263): the agenda's next event, or, when H issues nothing more, what
the core does by itself. Logs 5, 6 and 8. -/

namespace Sys2Proof.Machine

/-- The oldest kept FRAME goes to P once P is idle; while P is busy it stays where it is (42_pipeline.md R150). -/
def serveFrame (s : State) : Option Signal × State :=
  match s.pstate, s.heldFrames with
  | .idle, c :: rest => (some (encode (.frame c.len)), { s with heldFrames := rest, dataPort := c.data })
  | _, _ => (none, s)

/-- A word that H issues. FRAMEs of the audio source run in the order in which it issues them (20_memory.md R75 (a),
70_reset_and_hazards.md R285): behind a FRAME that its port still keeps, a new one is kept with its bytes, and an idle P is
given the oldest. What a port does with a second word is the model's choice (log 7). A MUTE carries nothing, so a new one
that an idle P runs at once, the kept ones staying, is the oldest of them as well as any. -/
def issueWord (w : Word) (data : List Byte) (s : State) : Option Signal × State :=
  match decodeWord w, s.pstate, s.heldFrames with
  | .ok (.frame len), .idle, _ :: _ => serveFrame { s with heldFrames := s.heldFrames ++ [⟨len, data⟩] }
  | _, _, _ => (some (.opw w), { s with dataPort := data })

/-- A kept MUTE goes to P once P is idle (42_pipeline.md R150). -/
def serveMute (s : State) : Option Signal × State :=
  match s.pstate, s.heldMutes with
  | .idle, n + 1 => (some (encode .mute), { s with heldMutes := n })
  | _, _ => (none, s)

/-- With no event left: P takes its self-step while it has samples to compute (42_pipeline.md R153); an idle P serves the
words its ports keep, and which of the two ports first is left free; otherwise every agent waits. -/
def autonomous (s : State) : Option Signal × State :=
  match s.pstate, s.heldFrames, s.heldMutes with
  | .compute, _, _ => (some .selfStep, s)
  | .idle, _ :: _, 0 => serveFrame s
  | .idle, [], _ + 1 => serveMute s
  | .idle, _ :: _, _ + 1 =>
    if Config.heldPick s.freePick then serveFrame { s with freePick := s.freePick + 1 }
    else serveMute { s with freePick := s.freePick + 1 }
  | _, _, _ => (none, s)

/-- The signal of the next step, if an agent steps, and the state it finds. -/
def fetch (s : State) : Option Signal × State :=
  match s.agenda with
  | [] => autonomous s
  | .issue w data :: rest => issueWord w data { s with agenda := rest }
  | .resetPulse a0 :: rest => (some (.resetPin true a0), { s with agenda := rest })
  | .pSelf :: rest => (some .selfStep, { s with agenda := rest })
  | .resumeFrame :: rest => serveFrame { s with agenda := rest }
  | .resumeMute :: rest => serveMute { s with agenda := rest }

/-- H's next event: the operation word with the bits `w`, and beside a FRAME its LEN data bytes, all zero
(30_encoding.md R95). For an idle P to run that FRAME next, its port must keep no older one (`issueWord`), so then it keeps
none. Log 19. -/
def presentWord (s : State) (nbits w : Nat) : State :=
  let v : Word := BitVec.ofNat 32 (w % 2 ^ nbits)
  let data := if opField v = 0x10#8 then List.replicate (argField v).toNat 0#8 else []
  let held := if opField v = 0x10#8 && s.pstate == .idle then [] else s.heldFrames
  { s with agenda := .issue v data :: s.agenda, heldFrames := held }

end Sys2Proof.Machine
end

