-- ==== Sys2Proof/Machine/Step.lean ====
section
/-! DEFINITION. One step of the machine. -/

namespace Sys2Proof.Machine

/-- The decoded operation of a signal runs; a signal that spells none is refused by name or asks for nothing. -/
def runSignal (sig : Signal) (s : State) : Host.Outcome State Fault Refusal :=
  match decode sig with
  | .ok i => exec i s
  | .error r => rejected r s

/-- One step: the next agent steps, or all wait (00_scope.md R6, 20_memory.md R75). -/
def step (s : State) : Host.Outcome State Fault Refusal :=
  match fetch s with
  | (some sig, s') => runSignal sig s'
  | (none, s') => .next s'

/-- The state in which the operation word `w` is H's next event. Log 19. -/
def State.withFetchWord (s : State) (nbits w : Nat) : State := presentWord s nbits w

end Sys2Proof.Machine
end

