-- ==== Sys2Proof/Machine/Assembler.lean ====
section
/-! DEFINITION. The assembler syntax and the pseudo-operations (30_encoding.md R105, R106). Log 23. -/

namespace Sys2Proof.Machine

/-! ## Pseudo-operations (30_encoding.md R106) -/

/-- The pseudo-operations. -/
inductive Pseudo
  | frames (vs : List Sample)
  | acks
  | press
  | release
  | period (a b l : Bool)
  | wait (d : BitVec 24)
  | sessionBegin
  | sessionEnd
deriving DecidableEq, Repr

/-- H's event that issues an instruction, with its data bytes; none for what has no word (30_encoding.md R101, R104). -/
def issueOf (i : Instr) (data : List Byte) : List Event :=
  match encode i with
  | .opw w => [.issue w data]
  | .resetPin true a0 => [.resetPulse a0]
  | .resetPin false _ | .lpfCtl _ _ | .bandWe _ _ | .selfStep => []

/-- Instructions without data, one word each, in order. -/
def issueAll (is : List Instr) : List Event := is.flatMap (fun i => issueOf i [])

/-- The words a pseudo-operation expands to, in order; none where an operand does not fit its field. -/
def Pseudo.expand : Pseudo → Option (List Event)
  | .frames vs =>
    if 2 * vs.length < 2 ^ 24 then some (issueOf (.frame (BitVec.ofNat 24 (2 * vs.length))) (bytesOf vs)) else none
  | .acks => some (issueAll [.bassAck, .midAck])
  | .press => some (issueAll [.btnPoll false])
  | .release => some (issueAll [.btnPoll true])
  | .period a b l => some (issueAll [.tickMs (BitVec.ofNat 24 Config.pollMs), .encPoll a b, .btnPoll l])
  | .wait d => some (issueAll [.tickMs d])
  | .sessionBegin => some (issueAll [.lpfClear, .mute, .bassAck, .midAck])
  | .sessionEnd => some (issueAll [.mute, .bassAck, .midAck])

/-! ## Lexical form -/

/-- Why an assembler refuses a line. -/
inductive AsmError
  | unknownMnemonic
  | badNumber
  | badOperands
  | doesNotFit
  | badData
deriving DecidableEq, Repr

/-- A space or a tab. -/
def isBlank (c : Char) : Bool := c == ' ' || c == '\t'

/-- Without blanks at either end. -/
def trimBlanks (cs : List Char) : List Char := ((cs.dropWhile isBlank).reverse.dropWhile isBlank).reverse

/-- The pieces between separators. -/
def splitAt (sep : Char) : List Char → List (List Char)
  | [] => [[]]
  | c :: cs =>
    match splitAt sep cs with
    | [] => [[c]]
    | p :: ps => if c == sep then [] :: p :: ps else (c :: p) :: ps

/-- The value of a digit, upper or lower case. -/
def digitValue (c : Char) : Option Nat :=
  if '0'.toNat ≤ c.toNat && c.toNat ≤ '9'.toNat then some (c.toNat - '0'.toNat)
  else if 'a'.toNat ≤ c.toNat && c.toNat ≤ 'f'.toNat then some (c.toNat - 'a'.toNat + 10)
  else if 'A'.toNat ≤ c.toNat && c.toNat ≤ 'F'.toNat then some (c.toNat - 'A'.toNat + 10)
  else none

/-- The value of digits in a base, after a value `acc` of the digits before them. -/
def digitsValue (base acc : Nat) : List Char → Option Nat
  | [] => some acc
  | c :: cs =>
    match digitValue c with
    | some d => if d < base then digitsValue base (base * acc + d) cs else none
    | none => none

/-- "Numbers are decimal, or hexadecimal with a `0x` prefix" (30_encoding.md R105). -/
def parseNumber : List Char → Option Nat
  | [] => none
  | '0' :: 'x' :: [] => none
  | '0' :: 'x' :: cs => digitsValue 16 0 cs
  | cs => digitsValue 10 0 cs

/-- A sample operand of FRAMES: a number, or a number after a minus sign, in the range of an s16. -/
def parseSample (cs : List Char) : Except AsmError Sample :=
  match cs with
  | '-' :: rest =>
    match parseNumber rest with
    | some n => if n ≤ 32768 then .ok (BitVec.ofInt 16 (-(n : Int))) else .error .doesNotFit
    | none => .error .badNumber
  | _ =>
    match parseNumber cs with
    | some n => if n ≤ 32767 then .ok (BitVec.ofNat 16 n) else .error .doesNotFit
    | none => .error .badNumber

/-- Numbers separated by commas; no operand at all for an empty text. -/
def parseNumbers (cs : List Char) : Except AsmError (List Nat) :=
  if trimBlanks cs = [] then .ok []
  else (splitAt ',' cs).mapM fun p =>
    match parseNumber (trimBlanks p) with
    | some n => .ok n
    | none => .error .badNumber

/-- A number that must fit a field of `w` bits (30_encoding.md R105). -/
def fitField (w n : Nat) : Except AsmError (BitVec w) :=
  if n < 2 ^ w then .ok (BitVec.ofNat w n) else .error .doesNotFit

/-- A one-bit operand. -/
def fitBit (n : Nat) : Except AsmError Bool :=
  if n < 2 then .ok (n == 1) else .error .doesNotFit

/-- A mnemonic of R105 and its operands in the order of the table of R91. -/
def assembleOp (mnemonic : String) (ops : List Nat) : Except AsmError Instr :=
  match mnemonic, ops with
  | "FRAME", [n] => (fitField 24 n).map .frame
  | "MUTE", [] => .ok .mute
  | "BASS_ACK", [] => .ok .bassAck
  | "MID_ACK", [] => .ok .midAck
  | "LPF_CLEAR", [] => .ok .lpfClear
  | "ENC_START", [a] => (fitBit a).map .encStart
  | "ENC_STOP", [] => .ok .encStop
  | "ENC_POLL", [a, b] => (fitBit a).bind fun x => (fitBit b).map (.encPoll x)
  | "BTN_POLL", [l] => (fitBit l).map .btnPoll
  | "VOL_SET_ABS", [v] => (fitField 16 v).map .volSetAbs
  | "NOTIFY_ARM", [] => .ok .notifyArm
  | "PLAY_STATUS", [p] => (fitBit p).map .playStatus
  | "TICK_MS", [d] => (fitField 24 d).map .tickMs
  | "RESET", [a] => (fitBit a).map .reset
  | _, _ =>
    if ("RESET" :: opcodeMap.map OpRow.mnemonic).contains mnemonic then .error .badOperands else .error .unknownMnemonic

/-- The operand fields of an instruction that an assembler line holds, in the order of the table of R91. -/
def operandValues : Instr → List Nat
  | .frame len => [len.toNat]
  | .encStart a => [a.toNat]
  | .encPoll a b => [a.toNat, b.toNat]
  | .btnPoll l => [l.toNat]
  | .volSetAbs v => [v.toNat]
  | .playStatus p => [p.toNat]
  | .tickMs d => [d.toNat]
  | .reset a0 => [a0.toNat]
  | .mute | .bassAck | .midAck | .lpfClear | .encStop | .notifyArm | .c1Hold | .c1Step _ | .c1Clear | .bandEval _
  | .sampleStep => []

/-- A pseudo-operation of R106 with number operands, if the mnemonic is one. -/
def assemblePseudo (mnemonic : String) (ops : List Nat) : Option (Except AsmError Pseudo) :=
  match mnemonic, ops with
  | "ACKS", [] => some (.ok .acks)
  | "PRESS", [] => some (.ok .press)
  | "RELEASE", [] => some (.ok .release)
  | "PERIOD", [a, b, l] =>
    some ((fitBit a).bind fun x => (fitBit b).bind fun y => (fitBit l).map (.period x y))
  | "WAIT", [d] => some ((fitField 24 d).map .wait)
  | "SESSION_BEGIN", [] => some (.ok .sessionBegin)
  | "SESSION_END", [] => some (.ok .sessionEnd)
  | _, _ => none

/-- The bytes of a FRAME line after `len,`: a bracketed list, each number a byte. -/
def parseData (cs : List Char) : Except AsmError (List Byte) :=
  match (trimBlanks cs).reverse with
  | ']' :: rest => (parseNumbers rest.reverse).bind fun ns => ns.mapM (fitField 8)
  | _ => .error .badData

/-- The operands of a FRAME line: `len, [b0, b1, ...]` with exactly `len` bytes; `len` alone only for 0
(30_encoding.md R105). -/
def assembleFrame (cs : List Char) : Except AsmError (List Event) :=
  let head := cs.takeWhile (· != '[')
  let data : Except AsmError (List Byte) :=
    match cs.dropWhile (· != '[') with
    | [] => .ok []
    | _ :: rest => parseData rest
  let len : Option (List Char) :=
    match cs.contains '[', (trimBlanks head).reverse with
    | true, ',' :: rest => some rest.reverse
    | true, _ => none
    | false, _ => some head
  match len with
  | none => .error .badOperands
  | some digits =>
    match parseNumber (trimBlanks digits) with
    | none => .error .badNumber
    | some n =>
      data.bind fun bs => (assembleOp "FRAME" [n]).bind fun i =>
        if bs.length = n then .ok (issueOf i bs) else .error .badData

/-- The operands of a FRAMES line: samples (30_encoding.md R106). -/
def assembleFrames (cs : List Char) : Except AsmError (List Event) :=
  ((splitAt ',' cs).mapM fun p => parseSample (trimBlanks p)).bind fun vs =>
    match (Pseudo.frames vs).expand with
    | some es => .ok es
    | none => .error .doesNotFit

/-- One line of assembly: a comment starts with `;`, and a line may hold nothing else (30_encoding.md R105). -/
def assembleChars (line : List Char) : Except AsmError (List Event) :=
  let text := trimBlanks (line.takeWhile (· != ';'))
  let mnemonic := String.ofList (text.takeWhile fun c => !isBlank c)
  let rest := text.dropWhile fun c => !isBlank c
  if text = [] then .ok []
  else if mnemonic = "FRAME" then assembleFrame rest
  else if mnemonic = "FRAMES" then assembleFrames rest
  else
    (parseNumbers rest).bind fun ops =>
      match assemblePseudo mnemonic ops with
      | some p =>
        p.bind fun q =>
          match q.expand with
          | some es => .ok es
          | none => .error .doesNotFit
      | none => (assembleOp mnemonic ops).map fun i => issueOf i []

/-- One line of assembly as a string. -/
def assembleLine (line : String) : Except AsmError (List Event) := assembleChars line.toList

/-! ## The disassembler -/

/-- The character of a digit below 16, in upper case. -/
def digitChar (d : Nat) : Char := if d < 10 then Char.ofNat (48 + d) else Char.ofNat (55 + d)

/-- Decimal digits, at most `fuel` of them. -/
def decimalDigits : Nat → Nat → List Char
  | 0, _ => []
  | fuel + 1, n => if n < 10 then [digitChar n] else decimalDigits fuel (n / 10) ++ [digitChar (n % 10)]

/-- A number of at most 32 bits in decimal. -/
def decimal (n : Nat) : String := String.ofList (decimalDigits 10 n)

/-- Eight hexadecimal digits. -/
def hex8 (w : Word) : String :=
  String.ofList ((List.range 8).map fun k => digitChar (w.toNat / 16 ^ (7 - k) % 16))

/-- Texts joined by a comma and a space. -/
def commaJoin : List String → String
  | [] => ""
  | [x] => x
  | x :: xs => x ++ ", " ++ commaJoin xs

/-- The operands of an instruction as R105 writes them; beside FRAME's length, its data bytes. -/
def operandText (data : List Byte) (i : Instr) : List String :=
  match i with
  | .frame len => [decimal len.toNat, "[" ++ commaJoin (data.map fun b => decimal b.toNat) ++ "]"]
  | .mute | .bassAck | .midAck | .lpfClear | .encStart _ | .encStop | .encPoll _ _ | .btnPoll _ | .volSetAbs _ | .notifyArm
  | .playStatus _ | .tickMs _ | .reset _ | .c1Hold | .c1Step _ | .c1Clear | .bandEval _ | .sampleStep =>
    (operandValues i).map decimal

/-- The line of an instruction: its mnemonic, then its operands. -/
def lineText (data : List Byte) (i : Instr) : String :=
  match operandText data i with
  | [] => i.mnemonic
  | ops => i.mnemonic ++ " " ++ commaJoin ops

/-- The canonical line of a word with the bytes beside it, or `.word 0xHHHHHHHH ; refused` (30_encoding.md R106). -/
def disassemble (w : Word) (data : List Byte) : String :=
  match decodeWord w with
  | .ok i => lineText data i
  | .error _ => ".word 0x" ++ hex8 w ++ " ; refused"

end Sys2Proof.Machine
end

