-- ==== Sys2Proof/Safety.lean ====
section
/-! DEFINITION. The terms in which claims about the core are stated: its registers by name, what a frame leaves unchanged, the
invariants, and the duties of H under which no step is refused. -/

namespace Sys2Proof.Machine

/-! ## Registers by name -/

/-- The registers of 10_state.md R51, buffers apart. -/
inductive Reg
  | PSTATE
  | PN
  | PIDX
  | PVF
  | PWLEN
  | LP_Y
  | VOL
  | PARTY
  | IS_PLAYING
  | NOTIFY_ARMED
  | POWER_ON
  | TIME_MS
  | ENC_RUN
  | ENC_PREV_A
  | ENC_LAST_EDGE
  | ENC_VOL
  | BSTATE
  | B_CLICKS
  | B_LAST_CLICK
  | B_PRESS_START
deriving DecidableEq, Repr

/-- The contents of a register as an unsigned number. -/
def State.reg (s : State) : Reg → Nat
  | .PSTATE => s.pstate.code.toNat
  | .PN => s.pn.toNat
  | .PIDX => s.pidx.toNat
  | .PVF => s.pvf.toNat
  | .PWLEN => s.pwlen.toNat
  | .LP_Y => s.lpY.toNat
  | .VOL => s.volByte.toNat
  | .PARTY => s.party.toNat
  | .IS_PLAYING => s.isPlaying.toNat
  | .NOTIFY_ARMED => s.notifyArmed.toNat
  | .POWER_ON => s.powerOn.toNat
  | .TIME_MS => s.timeMs.toNat
  | .ENC_RUN => s.encRun.toNat
  | .ENC_PREV_A => s.encPrevA.toNat
  | .ENC_LAST_EDGE => s.encLastEdge.toNat
  | .ENC_VOL => s.encVolByte.toNat
  | .BSTATE => s.bstate.code.toNat
  | .B_CLICKS => s.bClicks.toNat
  | .B_LAST_CLICK => s.bLastClick.toNat
  | .B_PRESS_START => s.bPressStart.toNat

/-! ## Frames -/

/-- Every register but those listed holds what it held. -/
def KeepsRegs (changed : List Reg) (s t : State) : Prop := ∀ r, r ∉ changed → t.reg r = s.reg r

/-- What H has at the ports and still to issue, and the counters of the free values, are as they were. -/
def KeepsPorts (s t : State) : Prop :=
  t.dataPort = s.dataPort ∧ t.heldFrames = s.heldFrames ∧ t.heldMutes = s.heldMutes ∧ t.agenda = s.agenda ∧
    t.freeBuf = s.freeBuf ∧ t.freePick = s.freePick

/-- Every byte of a buffer reads as before, but those at offsets `lo` to `hi - 1`. -/
def KeepsBytes (b : Buf) (lo hi : Nat) (s t : State) : Prop :=
  ∀ off, off < lo ∨ hi ≤ off → t.readByte b off = s.readByte b off

/-- Every byte of every buffer reads as before. -/
def KeepsBuffers (s t : State) : Prop := ∀ b off, t.readByte b off = s.readByte b off

/-! ## Rounding -/

/-- The smallest magnitude that rounds to infinity, in units of 2^-149: halfway from the largest finite value to the next. -/
def overflowMag : Nat := (2 ^ 25 - 1) * 2 ^ 252

/-- `r` is the binary32 value nearest to `num / den` units of 2^-149, and among two equally near ones the even one
(00_scope.md R8). -/
def RoundsTo (num : Int) (den : Nat) (r : F32) : Prop :=
  fpIsFinite r = true ∧
    ∀ c, fpIsFinite c = true →
      (fpVal r * den - num).natAbs ≤ (fpVal c * den - num).natAbs ∧
      ((fpVal r * den - num).natAbs = (fpVal c * den - num).natAbs → fpVal c ≠ fpVal r → r.getLsbD 0 = false)

/-! ## Invariants -/

/-- The first `n` bytes of a buffer have been written since the last RESET. -/
abbrev Memory.listedTo (m : Memory) (n : Nat) : Prop := ∀ a < n, (Memory.byteAt m a).isSome = true

/-- The buffers are in canonical form and within their 8192 bytes (20_memory.md R61). -/
def State.buffersWf (s : State) : Prop := ∀ b, Memory.wf (s.buf b) ∧ Memory.inRange (s.buf b)

/-- The registers and buffers of P agree with `PSTATE` (10_state.md R22 to R28): while samples are computed the indices are
legal, the whole frame is latched and the bands before `PIDX` are written; while the bass write is offered, the mid bytes
it will be followed by are written. -/
def State.pipelineInv (s : State) : Prop :=
  match s.pstate with
  | .idle => True
  | .compute =>
    s.legalIndex = true ∧ Memory.listedTo s.inBuf (2 * s.pn.toNat) ∧ Memory.listedTo s.bassBuf (2 * s.pidx.toNat) ∧
      Memory.listedTo s.midBuf (2 * s.pidx.toNat)
  | .wrBass => legalPwlen s.pwlen.toNat = true ∧ Memory.listedTo s.midBuf s.pwlen.toNat
  | .wrMid => True

/-- B's registers agree with `BSTATE` (10_state.md R44 to R47): the reserved value is never written, a press in progress has
been counted, and both press timestamps are those of the same press. -/
def State.buttonInv (s : State) : Prop :=
  s.bstate ≠ .reserved ∧ (s.bstate ≠ .idle → 0 < s.bClicks.toNat) ∧ s.bLastClick = s.bPressStart

/-- The machine's invariant. -/
def State.Inv (s : State) : Prop := s.buffersWf ∧ s.pipelineInv ∧ s.buttonInv

/-- The numeric invariant (40_lpf.md R125): `LP_Y` is finite and at most 32768.0 in magnitude, and `PVF` is in [0, 1].
32768.0 is 2^164 units of 2^-149, and 1.0 is 2^149. -/
def State.NumericInv (s : State) : Prop :=
  fpIsFinite s.lpY = true ∧ fpMag s.lpY ≤ 2 ^ 164 ∧ fpSign s.pvf = false ∧ fpMag s.pvf ≤ 2 ^ 149

/-! ## The handshake as the history shows it (42_pipeline.md R159) -/

/-- The sink writes of a history, each with its byte count, in order. -/
def sinkWrites (h : List Output) : List (Sink × Nat) :=
  h.filterMap fun e =>
    match e with
    | .sinkWrite k bytes => some (k, bytes.length)
    | .notify _ => none
    | .cmd _ _ => none
    | .session _ => none

/-- One bass and one mid write of the same byte count for each of the listed counts. -/
def writePairs (ns : List Nat) : List (Sink × Nat) := ns.flatMap fun n => [(.bass, n), (.mid, n)]

/-- The sink writes come in pairs, bass then mid with the same byte count; while P waits for BASS_ACK the last pair lacks
its mid write, and its byte count is `PWLEN`. -/
def State.handshake (s : State) : Prop :=
  ∃ ns, sinkWrites s.history =
    writePairs ns ++ (if s.pstate = .wrBass then [(.bass, s.pwlen.toNat)] else [])

/-! ## Runs -/

/-- Several steps, stopping at the first refusal. -/
def runSteps : Nat → State → Host.Outcome State Fault Refusal
  | 0, s => .next s
  | k + 1, s =>
    match step s with
    | .next t => runSteps k t
    | .fault r => .fault r
    | .refused r => .refused r

/-- The two bands of a sample sequence and the filter's last value, computed sample by sample from the filter value `lp`
(42_pipeline.md R153). -/
def frameBands (party : Bool) (pvf : F32) : F32 → List Sample → List Sample × List Sample × F32
  | lp, [] => ([], [], lp)
  | lp, v :: vs =>
    let x := scaleSample v pvf
    let lp' := filterNext x lp
    let rest := frameBands party pvf lp' vs
    (bass16 x party :: rest.1, mid16 x lp' party :: rest.2.1, rest.2.2)

/-- The button is polled as pressed after each of the given pauses (44_button.md R210). -/
def holdButton : List (BitVec 24) → State → Host.Outcome State Fault Refusal
  | [], s => .next s
  | d :: ds, s =>
    match exec (.tickMs d) s with
    | .next t =>
      match exec (.btnPoll false) t with
      | .next u => holdButton ds u
      | .fault r => .fault r
      | .refused r => .refused r
    | .fault r => .fault r
    | .refused r => .refused r

/-- The time after the given pauses (45_shared_ports.md R234). -/
def timeAfter (ds : List (BitVec 24)) (now : BitVec 32) : BitVec 32 := ds.foldl (fun t d => t + d.setWidth 32) now

/-! ## Tables of the spec that claims are held against -/

/-- The reserved opcode space as 30_encoding.md R93 lists it. -/
def isReservedOp (op : Nat) : Bool :=
  decide (op ≤ 0x0F) || (decide (0x15 ≤ op) && decide (op ≤ 0x1F)) || (decide (0x23 ≤ op) && decide (op ≤ 0x2F)) ||
    (decide (0x31 ≤ op) && decide (op ≤ 0x3F)) || (decide (0x43 ≤ op) && decide (op ≤ 0x4F)) ||
    (decide (0x51 ≤ op) && decide (op ≤ 0xFF))

/-- Which operation emits which event (30_encoding.md R96). -/
def mayEmit (i : Instr) : Output → Prop
  | .sinkWrite .bass bytes =>
    (i = .sampleStep ∨ i = .mute) ∧ bytes.length % 2 = 0 ∧ 2 ≤ bytes.length ∧ bytes.length ≤ 8192
  | .sinkWrite .mid bytes => i = .bassAck ∧ bytes.length % 2 = 0 ∧ 2 ≤ bytes.length ∧ bytes.length ≤ 8192
  | .notify v => (∃ a b, i = .encPoll a b) ∧ v.toNat ≤ 127
  | .cmd _ _ => ∃ l, i = .btnPoll l
  | .session _ => ∃ l, i = .btnPoll l

/-- The transitions of `PSTATE` (42_pipeline.md R150), RESET aside; an operation that is not served leaves it. -/
def pstateAfter (i : Instr) (s : State) : PState :=
  match i with
  | .frame len => if s.pstate = .idle ∧ len.toNat ≤ 8192 ∧ 1 ≤ len.toNat / 2 then .compute else s.pstate
  | .sampleStep => if s.pstate = .compute ∧ s.pidx.toNat + 1 = s.pn.toNat then .wrBass else s.pstate
  | .mute => if s.pstate = .idle then .wrBass else s.pstate
  | .bassAck => if s.pstate = .wrBass then .wrMid else s.pstate
  | .midAck => if s.pstate = .wrMid then .idle else s.pstate
  | .reset _ => .idle
  | .lpfClear | .encStart _ | .encStop | .encPoll _ _ | .btnPoll _ | .volSetAbs _ | .notifyArm | .playStatus _ | .tickMs _
  | .c1Hold | .c1Step _ | .c1Clear | .bandEval _ => s.pstate

/-! ## The duties of H (70_reset_and_hazards.md R282) -/

/-- Every kept FRAME has exactly LEN data bytes (30_encoding.md R95). -/
def State.portsInv (s : State) : Prop := ∀ c ∈ s.heldFrames, c.data.length = c.len.toNat

/-- What H must observe of the word it issues: it is no reserved word, no acknowledgement that no sink write is waiting for
(R282 item 7), and a FRAME comes with exactly LEN bytes (30_encoding.md R95). -/
def dutifulWord (s : State) (w : Word) (data : List Byte) : Prop :=
  match decodeWord w with
  | .ok (.frame len) => data.length = len.toNat
  | .ok .bassAck => s.pstate = .wrBass
  | .ok .midAck => s.pstate = .wrMid
  | .ok _ => True
  | .error _ => False

/-- The next event keeps H's duties. -/
def State.dutiful (s : State) : Prop :=
  match s.agenda with
  | .issue w data :: _ => dutifulWord s w data
  | [] => True
  | .resetPulse _ :: _ => True
  | .pSelf :: _ => True
  | .resumeFrame :: _ => True
  | .resumeMute :: _ => True

/-- The next event is a RESET. -/
def State.resetNext (s : State) : Bool :=
  match s.agenda with
  | .resetPulse _ :: _ => true
  | [] | .issue _ _ :: _ | .pSelf :: _ | .resumeFrame :: _ | .resumeMute :: _ => false

end Sys2Proof.Machine
end

