-- ==== Sys2Proof/Certificates/Slice0/Obligations.lean ====
section
/-! DEFINITION. The statements for the provers. -/

open Sys2Proof Sys2Proof.Machine

/-! ## Encodings -/

/-- Decode and encode agree: every instruction, with every operand at every value, is what its own encoding decodes to
(30_encoding.md R91, R94, R101 to R104). -/
def Obligations.EncodedInstructionDecodesBack : Prop := ∀ i : Instr, decode (encode i) = .ok i

/-- A word that decodes is the encoding of what it decodes to, so no word is read as a neighbour (30_encoding.md R94, R105). -/
def Obligations.DecodedWordEncodesBack : Prop :=
  ∀ (w : Word) (i : Instr), decodeWord w = .ok i → encode i = .opw w ∧ i.wellFormed = true

/-- 30_encoding.md R92: each legal word matches exactly one row of the operation map, and a word that matches a row decodes
to that row's operation. -/
def Obligations.LegalWordMatchesExactlyOneRow : Prop :=
  ∀ w : Word,
    ((∃ i, decodeWord w = .ok i) →
      ∃ r ∈ opcodeMap, r.fits w = true ∧ ∀ r' ∈ opcodeMap, r'.fits w = true → r' = r) ∧
    (∀ r ∈ opcodeMap, r.fits w = true → ∃ i, decodeWord w = .ok i ∧ i.mnemonic = r.mnemonic)

/-- 30_encoding.md R93: a word in the reserved opcode space matches no row, and a word that matches no row is refused by
name when it is issued. -/
def Obligations.ReservedWordIsRefused : Prop :=
  ∀ (s : State) (w : Word) (data : List Byte) (rest : List Event), s.agenda = .issue w data :: rest →
    (isReservedOp (opField w).toNat = true → ∀ r ∈ opcodeMap, r.fits w = false) ∧
    ((∀ r ∈ opcodeMap, r.fits w = false) →
      step s = .refused (if isReservedOp (opField w).toNat = true then .reservedOp else .reservedArg))

/-- The decoder vectors of 95_test_vectors.md 2.9, one word at least per family: a sanity statement. -/
def Obligations.SpecDecoderVectors : Prop :=
  decodeWord 0x00000000#32 = .error .reservedOp ∧ decodeWord 0x10002000#32 = .ok (.frame 8192#24) ∧
  decodeWord 0x11000001#32 = .error .reservedArg ∧ decodeWord 0x15000000#32 = .error .reservedOp ∧
  decodeWord 0x20000001#32 = .ok (.encStart true) ∧ decodeWord 0x20000002#32 = .error .reservedArg ∧
  decodeWord 0x22000003#32 = .ok (.encPoll true true) ∧ decodeWord 0x22000004#32 = .error .reservedArg ∧
  decodeWord 0x30000001#32 = .ok (.btnPoll true) ∧ decodeWord 0x40010000#32 = .error .reservedArg ∧
  decodeWord 0x4000FFFF#32 = .ok (.volSetAbs 65535#16) ∧ decodeWord 0x42000002#32 = .error .reservedArg ∧
  decodeWord 0x50FFFFFF#32 = .ok (.tickMs 16777215#24) ∧ decodeWord 0xFFFFFFFF#32 = .error .reservedOp

/-- A mnemonic and operand values, in the order of the table of 30_encoding.md R91, give the operation back, RESET's `a0`
too, and a value that does not fit its field is refused, whatever the other operand (30_encoding.md R105). It is about parsed
operands, not about the text of a line. -/
def Obligations.AssemblerTakesOperandsThatFit : Prop :=
  (∀ (w : Word) (i : Instr), decodeWord w = .ok i → assembleOp i.mnemonic (operandValues i) = .ok i) ∧
  (∀ a0, assembleOp "RESET" [a0.toNat] = .ok (.reset a0)) ∧
  (∀ n, 2 ^ 24 ≤ n → assembleOp "FRAME" [n] = .error .doesNotFit ∧ assembleOp "TICK_MS" [n] = .error .doesNotFit) ∧
  (∀ n, 2 ^ 16 ≤ n → assembleOp "VOL_SET_ABS" [n] = .error .doesNotFit) ∧
  (∀ n, 2 ≤ n → assembleOp "ENC_START" [n] = .error .doesNotFit ∧ assembleOp "BTN_POLL" [n] = .error .doesNotFit ∧
    assembleOp "PLAY_STATUS" [n] = .error .doesNotFit ∧ assembleOp "RESET" [n] = .error .doesNotFit ∧
    ∀ m, assembleOp "ENC_POLL" [n, m] = .error .doesNotFit ∧ assembleOp "ENC_POLL" [m, n] = .error .doesNotFit)

/-! ## What a step runs -/

/-- A step runs the decoded operation: when the next event issues a word that decodes to `i`, `step` is `exec` of `i` on the
state with that event taken and its bytes on the frame data port. Only a FRAME at an idle P whose port still keeps an older
one waits behind it: the oldest runs and the new one is kept last (20_memory.md R75 (a), 70_reset_and_hazards.md R285; what a
port does with a second word is the model's choice, log 7). `withFetchWord` makes its word the very next operation, with LEN
zero bytes beside a FRAME and no older FRAME kept at an idle P. The agenda is the model's (log 5, log 19). -/
def Obligations.StepRunsTheIssuedOperation : Prop :=
  ∀ (s : State) (w : Word) (i : Instr), decodeWord w = .ok i →
    (∀ (data : List Byte) (rest : List Event), s.agenda = .issue w data :: rest →
      ((∃ len, i = .frame len) → s.pstate = .idle → s.heldFrames = []) →
      step s = exec i { s with agenda := rest, dataPort := data }) ∧
    (∀ (data : List Byte) (rest : List Event) (len : BitVec 24) (c : FrameCall) (cs : List FrameCall),
      s.agenda = .issue w data :: rest → i = .frame len → s.pstate = .idle → s.heldFrames = c :: cs →
      step s = exec (.frame c.len)
        { s with agenda := rest, heldFrames := cs ++ [⟨len, data⟩], dataPort := c.data }) ∧
    (∃ data held, step (s.withFetchWord 32 w.toNat) = exec i { s with dataPort := data, heldFrames := held } ∧
      (∀ len, i = .frame len → data = List.replicate len.toNat 0#8 ∧ (s.pstate = .idle → held = [])) ∧
      ((∀ len, i ≠ .frame len) ∨ s.pstate ≠ .idle → held = s.heldFrames))

/-- The steps that come without a word: P's self-step when it is P's turn, and when H issues nothing and P has samples to
compute; the RESET pulse; and a step in which every agent waits. The agenda is the model's (log 5, log 6). An inactive control
line changes nothing (30_encoding.md R103; log 21). -/
def Obligations.StepWithoutAWord : Prop :=
  (∀ (s : State) (rest : List Event),
    (s.agenda = .pSelf :: rest → step s = exec .sampleStep { s with agenda := rest }) ∧
    (∀ a0, s.agenda = .resetPulse a0 :: rest → step s = exec (.reset a0) { s with agenda := rest }) ∧
    (s.agenda = [] → s.pstate = .compute → step s = exec .sampleStep s) ∧
    (s.agenda = [] → s.pstate = .wrBass ∨ s.pstate = .wrMid → step s = .next s) ∧
    (s.agenda = [] → s.pstate = .idle → s.heldFrames = [] → s.heldMutes = 0 → step s = .next s)) ∧
  ∀ (s : State) (x : F32) (a0 : Bool),
    runSignal (.bandWe false x) s = .next s ∧ runSignal (.resetPin false a0) s = .next s

/-- A kept word is served once P is idle. When H issues nothing more: alone, it is the next thing P does; beside a word of the
other port, one of the two is. When the agenda gives a port its turn, P runs what it keeps, or the word stays there while P is
busy (42_pipeline.md R150). Of several kept FRAMEs the oldest is served. Which port comes first, that a port may keep several
words and in which order, and the agenda are the model's choices (log 5, log 6, log 7, log 8). -/
def Obligations.KeptWordIsServedWhenIdle : Prop :=
  ∀ (s : State),
    (s.agenda = [] → s.pstate = .idle →
      (∀ c cs, s.heldFrames = c :: cs → s.heldMutes = 0 →
        step s = exec (.frame c.len) { s with heldFrames := cs, dataPort := c.data }) ∧
      (∀ n, s.heldFrames = [] → s.heldMutes = n + 1 → step s = exec .mute { s with heldMutes := n }) ∧
      (∀ c cs n, s.heldFrames = c :: cs → s.heldMutes = n + 1 →
        step s = exec (.frame c.len) { s with heldFrames := cs, dataPort := c.data, freePick := s.freePick + 1 } ∨
        step s = exec .mute { s with heldMutes := n, freePick := s.freePick + 1 })) ∧
    (∀ rest, s.agenda = .resumeFrame :: rest →
      (∀ c cs, s.pstate = .idle → s.heldFrames = c :: cs →
        step s = exec (.frame c.len) { s with agenda := rest, heldFrames := cs, dataPort := c.data }) ∧
      (s.pstate ≠ .idle ∨ s.heldFrames = [] → step s = .next { s with agenda := rest })) ∧
    (∀ rest, s.agenda = .resumeMute :: rest →
      (∀ n, s.pstate = .idle → s.heldMutes = n + 1 →
        step s = exec .mute { s with agenda := rest, heldMutes := n }) ∧
      (s.pstate ≠ .idle ∨ s.heldMutes = 0 → step s = .next { s with agenda := rest }))

/-! ## Binary32 arithmetic -/

/-- An integer of magnitude at most 2^24 converts exactly. Addition and subtraction of finite values round the exact result
once, to nearest with ties to even; a magnitude that overflows gives the infinity of its sign; an exact zero is negative only
if both terms are (00_scope.md R8, R10; IEEE 754 is log 20). -/
def Obligations.AddAndSubRoundToNearestEven : Prop :=
  (∀ n : Int, n.natAbs ≤ 2 ^ 24 → fpIsFinite (fpOfInt n) = true ∧ fpVal (fpOfInt n) = n * 2 ^ 149) ∧
  ∀ a b : F32, fpIsFinite a = true → fpIsFinite b = true →
    ((fpVal a + fpVal b).natAbs < overflowMag → RoundsTo (fpVal a + fpVal b) 1 (fpAdd a b)) ∧
    (overflowMag ≤ (fpVal a + fpVal b).natAbs →
      fpAdd a b = if fpVal a + fpVal b < 0 then 0xFF800000#32 else 0x7F800000#32) ∧
    (fpVal a + fpVal b = 0 → fpSign (fpAdd a b) = (fpSign a && fpSign b)) ∧
    ((fpVal a - fpVal b).natAbs < overflowMag → RoundsTo (fpVal a - fpVal b) 1 (fpSub a b)) ∧
    (overflowMag ≤ (fpVal a - fpVal b).natAbs →
      fpSub a b = if fpVal a - fpVal b < 0 then 0xFF800000#32 else 0x7F800000#32) ∧
    (fpVal a - fpVal b = 0 → fpSign (fpSub a b) = (fpSign a && !fpSign b))

/-- Multiplication of finite values rounds the exact product once, to nearest with ties to even; a magnitude that overflows
gives an infinity; the sign, of a zero too, is negative if the factors' signs differ (00_scope.md R8; IEEE 754 is log 20). -/
def Obligations.MulRoundsToNearestEven : Prop :=
  ∀ a b : F32, fpIsFinite a = true → fpIsFinite b = true →
    ((fpVal a * fpVal b).natAbs < overflowMag * 2 ^ 149 → RoundsTo (fpVal a * fpVal b) (2 ^ 149) (fpMul a b)) ∧
    (overflowMag * 2 ^ 149 ≤ (fpVal a * fpVal b).natAbs → fpIsInf (fpMul a b) = true) ∧
    fpSign (fpMul a b) = (fpSign a != fpSign b)

/-- Division of a finite value by a finite nonzero one rounds the exact quotient once, to nearest with ties to even; a
magnitude that overflows gives an infinity; the sign, of a zero too, is negative if the operands' signs differ. A nonzero
value by a zero gives the infinity of that sign, and zero by zero a NaN (00_scope.md R8; IEEE 754 is log 20). -/
def Obligations.DivRoundsToNearestEven : Prop :=
  ∀ a b : F32, fpIsFinite a = true → fpIsFinite b = true →
    (fpVal b ≠ 0 →
      ((fpVal a).natAbs * 2 ^ 149 < overflowMag * (fpVal b).natAbs →
        RoundsTo (fpVal a * 2 ^ 149 * (fpVal b).sign) (fpVal b).natAbs (fpDiv a b)) ∧
      (overflowMag * (fpVal b).natAbs ≤ (fpVal a).natAbs * 2 ^ 149 → fpIsInf (fpDiv a b) = true)) ∧
    (fpVal b = 0 → fpVal a ≠ 0 → fpIsInf (fpDiv a b) = true) ∧
    (fpVal b ≠ 0 ∨ fpVal a ≠ 0 → fpSign (fpDiv a b) = (fpSign a != fpSign b)) ∧
    (fpVal b = 0 → fpVal a = 0 → fpIsNaN (fpDiv a b) = true)

/-- 41_band_stage.md R133: narrowing clips to [-32768, 32767] and truncates every other value toward zero; both zeros give
0. A NaN, which cannot occur (R136), is left out: there the result is free (log 14). -/
def Obligations.NarrowingClipsThenTruncates : Prop :=
  ∀ v : F32, fpIsNaN v = false →
    (narrow16 v).toInt = max (-32768) (min 32767 ((fpVal v).tdiv (2 ^ 149)))

/-- 42_pipeline.md R152: the volume factor is `((v*500) div 127) / 500` rounded once, and never above 1.0. -/
def Obligations.VolumeFactorIsTheRoundedQuotient : Prop :=
  ∀ v : BitVec 7,
    RoundsTo ((v.toNat * 500 / 127 : Nat) * 2 ^ 149) 500 (volFactor v) ∧ fpSign (volFactor v) = false ∧
      fpVal (volFactor v) ≤ fpVal fpOne

/-! ## C1 and C2 -/

/-- 40_lpf.md R121: C1.STEP, which SAMPLE_STEP alone drives, writes `fp_add(fp_mul(ALPHA, x), fp_mul(OMA, LP_Y))` to `LP_Y`
and nothing else; zeros give +0.0; from an operand of magnitude at most 32768.0 a finite accumulator stays finite, and one of
magnitude at most 32768.0 stays so. -/
def Obligations.FilterStepWritesTheAccumulator : Prop :=
  ∀ (s : State) (x : F32), ∃ t, exec (.c1Step x) s = .next t ∧
    t.lpY = fpAdd (fpMul 0x3D23D70A#32 x) (fpMul 0x3F75C28F#32 s.lpY) ∧
    (x = 0#32 ∨ x = 0x80000000#32 → s.lpY = 0#32 → t.lpY = 0#32) ∧
    fpMul 0x3D23D70A#32 0x80000000#32 = 0x80000000#32 ∧
    (fpMag x ≤ 2 ^ 164 → fpIsFinite s.lpY = true →
      fpIsFinite t.lpY = true ∧ (fpMag s.lpY ≤ 2 ^ 164 → fpMag t.lpY ≤ 2 ^ 164)) ∧
    KeepsRegs [.LP_Y] s t ∧ KeepsBuffers s t ∧ KeepsPorts s t ∧ t.history = s.history ∧
    decode (.lpfCtl 1#2 x) = .ok (.c1Step x) ∧
    ∀ i, lpfCtlDriven i s = 1#2 → i = .sampleStep ∨ ∃ y, i = .c1Step y

/-- 40_lpf.md R122: C1.CLEAR, which LPF_CLEAR and RESET drive, leaves `LP_Y` = +0.0; C1.CLEAR itself changes nothing else. -/
def Obligations.FilterClearZeroesTheAccumulator : Prop :=
  ∀ s : State, ∃ t, exec .c1Clear s = .next t ∧ t.lpY = 0#32 ∧
    KeepsRegs [.LP_Y] s t ∧ KeepsBuffers s t ∧ KeepsPorts s t ∧ t.history = s.history ∧
    (∀ x, decode (.lpfCtl 2#2 x) = .ok .c1Clear) ∧
    lpfCtlDriven .lpfClear s = 2#2 ∧ (∀ a0, lpfCtlDriven (.reset a0) s = 2#2)

/-- 40_lpf.md R123: C1.HOLD changes nothing, and every step other than SAMPLE_STEP, LPF_CLEAR and RESET (and C1's own two
controls, which those drive) leaves `LP_Y` unchanged. -/
def Obligations.EveryOtherStepHoldsTheAccumulator : Prop :=
  (∀ s : State, exec .c1Hold s = .next s) ∧ (∀ x, decode (.lpfCtl 0#2 x) = .ok .c1Hold) ∧
  (∀ (i : Instr) (s t : State), exec i s = .next t → i ≠ .sampleStep → i ≠ .lpfClear → (∀ a0, i ≠ .reset a0) →
    (∀ x, i ≠ .c1Step x) → i ≠ .c1Clear → t.lpY = s.lpY)

/-- 30_encoding.md R102: what C3 drives on `lpf_ctl` in each operation determines `LP_Y`: 01 steps the filter, 10 clears it,
00 holds it. C3 drives 01 in each SAMPLE_STEP, 10 in LPF_CLEAR and at RESET, 00 at every other time (C1's own operations
apart); 11 is never driven, and is refused (40_lpf.md R124). -/
def Obligations.FilterControlDeterminesTheAccumulator : Prop :=
  (∀ (i : Instr) (s t : State), exec i s = .next t →
    t.lpY =
      if lpfCtlDriven i s = 1#2 then filterNext (stageOperand i s) s.lpY
      else if lpfCtlDriven i s = 2#2 then 0#32 else s.lpY) ∧
  (∀ (a0 : Bool) (s : State), (s.pstate = .compute → lpfCtlDriven .sampleStep s = 1#2) ∧
    lpfCtlDriven .lpfClear s = 2#2 ∧ lpfCtlDriven (.reset a0) s = 2#2) ∧
  (∀ (i : Instr) (s : State), lpfCtlDriven i s ≠ 0#2 → (i = .sampleStep ∧ s.pstate = .compute) ∨ i = .lpfClear ∨
    (∃ a0, i = .reset a0) ∨ (∃ x, i = .c1Step x) ∨ i = .c1Clear) ∧
  (∀ (i : Instr) (s : State), lpfCtlDriven i s ≠ 3#2) ∧
  (∀ (x : F32) (s : State), runSignal (.lpfCtl 3#2 x) s = .refused .lpfCtlReserved)

/-- 41_band_stage.md R131 and R132: BAND_EVAL, which SAMPLE_STEP alone drives, writes both narrowed bands at `PIDX`, with the
gains `PARTY` selects, and nothing else. -/
def Obligations.BandEvalWritesBothBands : Prop :=
  ∀ (s : State) (x : F32), s.pidx.toNat < 4096 →
    ∃ t, exec (.bandEval x) s = .next t ∧
      t.readSample .bassBuf s.pidx.toNat =
        narrow16 (fpMul x (if s.party = true then 0x3F800000#32 else 0x3E99999A#32)) ∧
      t.readSample .midBuf s.pidx.toNat =
        narrow16 (fpMul (fpSub x s.lpY) (if s.party = true then 0x3F800000#32 else 0x3E99999A#32)) ∧
      KeepsBytes .bassBuf (2 * s.pidx.toNat) (2 * s.pidx.toNat + 2) s t ∧
      KeepsBytes .midBuf (2 * s.pidx.toNat) (2 * s.pidx.toNat + 2) s t ∧ KeepsBytes .inBuf 0 0 s t ∧
      KeepsRegs [] s t ∧ KeepsPorts s t ∧ t.history = s.history ∧
      decode (.bandWe true x) = .ok (.bandEval x) ∧
      ∀ i, bandWeDriven i s = true → i = .sampleStep ∨ ∃ y, i = .bandEval y

/-- 41_band_stage.md R134: `lp_y` does not enter the bass band: a SAMPLE_STEP from two states that differ in `LP_Y` only
leaves the same bass buffer and the same history, the bass sample being the scaled input times its gain. -/
def Obligations.BassBandIgnoresTheFilter : Prop :=
  ∀ (s : State) (v : F32), s.pstate = .compute → s.pidx.toNat < s.pn.toNat → s.pn.toNat ≤ 4096 →
    ∃ t u, exec .sampleStep s = .next t ∧ exec .sampleStep { s with lpY := v } = .next u ∧
      (∀ off, u.readByte .bassBuf off = t.readByte .bassBuf off) ∧ u.history = t.history ∧
      t.readSample .bassBuf s.pidx.toNat =
        narrow16 (fpMul (fpMul (fpOfInt (s.readSample .inBuf s.pidx.toNat).toInt) s.pvf)
          (if s.party = true then 0x3F800000#32 else 0x3E99999A#32))

/-! ## C3 -/

/-- 20_memory.md R64: an accepted FRAME decodes `LEN >> 1` little-endian samples into `IN_BUF`. It latches the volume factor of
its one read of `VOL`, and starts computing at index 0 (42_pipeline.md R151, R152); every other byte and register is left. -/
def Obligations.AcceptedFrameIsLatched : Prop :=
  ∀ (s : State) (len : BitVec 24), s.pstate = .idle → 2 ≤ len.toNat → len.toNat ≤ 8192 →
    s.dataPort.length = len.toNat →
    ∃ t, exec (.frame len) s = .next t ∧
      (∀ i, i < len.toNat / 2 → ∃ lo hi, s.dataPort[2 * i]? = some lo ∧ s.dataPort[2 * i + 1]? = some hi ∧
        t.readSample .inBuf i = hi ++ lo) ∧
      t.pvf = volFactor s.vol ∧ t.pn.toNat = len.toNat / 2 ∧ t.pidx = 0 ∧ t.pstate = .compute ∧
      KeepsBytes .inBuf 0 (2 * (len.toNat / 2)) s t ∧ KeepsBytes .bassBuf 0 0 s t ∧ KeepsBytes .midBuf 0 0 s t ∧
      KeepsRegs [.PSTATE, .PN, .PIDX, .PVF] s t ∧ KeepsPorts s t ∧ t.history = s.history

/-- 42_pipeline.md R158: a dropped frame changes no state and emits no event; nor does a frame with no whole sample
(R151). -/
def Obligations.DroppedOrEmptyFrameHasNoEffect : Prop :=
  ∀ (s : State) (len : BitVec 24), s.pstate = .idle →
    (8192 < len.toNat → exec (.frame len) s = .next s) ∧
    (len.toNat < 2 → exec (.frame len) s = .next s)

/-- 42_pipeline.md R153: SAMPLE_STEP computes the sample at `PIDX` and, after the last one, offers the bass buffer. The mid
band uses `LP_Y` after this sample's C1.STEP (41_band_stage.md R135). At `PVF` = 0.0 too the mid band is what R153's
pseudocode gives, against its corner case: the model's reading (DEDUCED, log 24). -/
def Obligations.SampleStepComputesOneSample : Prop :=
  ∀ (s : State), s.pstate = .compute → s.pidx.toNat < s.pn.toNat → s.pn.toNat ≤ 4096 →
    lpfCtlDriven .sampleStep s = 1#2 ∧ bandWeDriven .sampleStep s = true ∧
    ∃ t x, exec .sampleStep s = .next t ∧
      x = fpMul (fpOfInt (s.readSample .inBuf s.pidx.toNat).toInt) s.pvf ∧
      t.lpY = fpAdd (fpMul 0x3D23D70A#32 x) (fpMul 0x3F75C28F#32 s.lpY) ∧
      t.readSample .bassBuf s.pidx.toNat =
        narrow16 (fpMul x (if s.party = true then 0x3F800000#32 else 0x3E99999A#32)) ∧
      t.readSample .midBuf s.pidx.toNat =
        narrow16 (fpMul (fpSub x t.lpY) (if s.party = true then 0x3F800000#32 else 0x3E99999A#32)) ∧
      t.pidx.toNat = s.pidx.toNat + 1 ∧
      (s.pidx.toNat + 1 < s.pn.toNat → t.pstate = .compute ∧ t.pwlen = s.pwlen ∧ t.history = s.history) ∧
      (s.pidx.toNat + 1 = s.pn.toNat → t.pstate = .wrBass ∧ t.pwlen.toNat = 2 * s.pn.toNat ∧
        ∃ bytes, t.history = s.history ++ [.sinkWrite .bass bytes] ∧ bytes.length = 2 * s.pn.toNat ∧
          ∀ k, k < 2 * s.pn.toNat → bytes[k]? = some (t.readByte .bassBuf k)) ∧
      KeepsBytes .bassBuf (2 * s.pidx.toNat) (2 * s.pidx.toNat + 2) s t ∧
      KeepsBytes .midBuf (2 * s.pidx.toNat) (2 * s.pidx.toNat + 2) s t ∧ KeepsBytes .inBuf 0 0 s t ∧
      KeepsRegs [.LP_Y, .PIDX, .PWLEN, .PSTATE] s t ∧ KeepsPorts s t

/-- A field outside its legal values is refused where it is used: `PN` and `PIDX` by SAMPLE_STEP, `PIDX` by BAND_EVAL,
`PWLEN` by BASS_ACK, and `BSTATE = 3` by BTN_POLL (10_state.md R23, R24, R26, R44, R49; log 11). A FRAME in range that does
not come with exactly LEN bytes (30_encoding.md R95) is refused: the model's choice (log 15). -/
def Obligations.IllegalFieldIsRefused : Prop :=
  ∀ (s : State),
    (s.pstate = .compute → s.pn.toNat ≤ s.pidx.toNat ∨ 4096 < s.pn.toNat →
      exec .sampleStep s = .refused .illegalIndex) ∧
    (∀ x, 4096 ≤ s.pidx.toNat → exec (.bandEval x) s = .refused .illegalIndex) ∧
    (s.pstate = .wrBass → s.pwlen.toNat % 2 = 1 ∨ s.pwlen.toNat = 0 ∨ 8192 < s.pwlen.toNat →
      exec .bassAck s = .refused .illegalPwlen) ∧
    (∀ l, s.bstate = .reserved → exec (.btnPoll l) s = .refused .bstateReserved) ∧
    (∀ len : BitVec 24, s.pstate = .idle → 2 ≤ len.toNat → len.toNat ≤ 8192 → s.dataPort.length ≠ len.toNat →
      exec (.frame len) s = .refused .frameDataMismatch)

/-- 42_pipeline.md R154: BASS_ACK moves P on and offers the first `PWLEN` bytes of the mid buffer. -/
def Obligations.BassAckOffersTheMidBuffer : Prop :=
  ∀ (s : State),
    (s.pstate = .wrBass → s.pwlen.toNat % 2 = 0 → 2 ≤ s.pwlen.toNat → s.pwlen.toNat ≤ 8192 →
      ∃ t bytes, exec .bassAck s = .next t ∧ t.pstate = .wrMid ∧
        t.history = s.history ++ [.sinkWrite .mid bytes] ∧ bytes.length = s.pwlen.toNat ∧
        (∀ k, k < s.pwlen.toNat → bytes[k]? = some (s.readByte .midBuf k)) ∧
        KeepsRegs [.PSTATE] s t ∧ KeepsBuffers s t ∧ KeepsPorts s t) ∧
    (s.pstate ≠ .wrBass → exec .bassAck s = .refused .strayBassAck)

/-- 42_pipeline.md R155: MID_ACK returns P to `P_IDLE` and changes nothing else; elsewhere it is refused. -/
def Obligations.MidAckReturnsToIdle : Prop :=
  ∀ (s : State),
    (s.pstate = .wrMid → ∃ t, exec .midAck s = .next t ∧ t.pstate = .idle ∧
      KeepsRegs [.PSTATE] s t ∧ KeepsBuffers s t ∧ KeepsPorts s t ∧ t.history = s.history) ∧
    (s.pstate ≠ .wrMid → exec .midAck s = .refused .strayMidAck)

/-- 42_pipeline.md R156: MUTE from `P_IDLE` zeroes both working buffers and offers 8192 zero bytes to the bass sink; it leaves
`LP_Y`, `IN_BUF` and every other register. -/
def Obligations.MuteZeroesBothBuffers : Prop :=
  ∀ (s : State), s.pstate = .idle →
    ∃ t, exec .mute s = .next t ∧ t.pstate = .wrBass ∧ t.pwlen.toNat = 8192 ∧
      (∀ off, off < 8192 → t.readByte .bassBuf off = 0#8 ∧ t.readByte .midBuf off = 0#8) ∧
      t.history = s.history ++ [.sinkWrite .bass (List.replicate 8192 0#8)] ∧
      KeepsBytes .inBuf 0 0 s t ∧ KeepsBytes .bassBuf 0 8192 s t ∧ KeepsBytes .midBuf 0 8192 s t ∧
      KeepsRegs [.PSTATE, .PWLEN] s t ∧ KeepsPorts s t

/-- 42_pipeline.md R157: LPF_CLEAR is enabled in every `PSTATE`, drives `lpf_ctl = 10` and only writes +0.0 to `LP_Y`. -/
def Obligations.LpfClearZeroesTheFilterOnly : Prop :=
  ∀ (s : State), lpfCtlDriven .lpfClear s = 2#2 ∧ ∃ t, exec .lpfClear s = .next t ∧ t.lpY = 0#32 ∧
    KeepsRegs [.LP_Y] s t ∧ KeepsBuffers s t ∧ KeepsPorts s t ∧ t.history = s.history

/-- The transitions of `PSTATE` (42_pipeline.md R150; RESET returns it to `P_IDLE`). A FRAME or MUTE outside `P_IDLE` is
held: its port keeps the word, a FRAME with its bytes, and nothing else changes. An acknowledgement outside its wait state is
refused, and SAMPLE_STEP outside `P_COMPUTE` waits (00_scope.md R6). What a port that already keeps a word does with another,
and that a wait is a next state, is the model's (log 7, log 10). -/
def Obligations.SequencerTransitions : Prop :=
  (∀ (i : Instr) (s t : State), exec i s = .next t → t.pstate = pstateAfter i s) ∧
  (∀ s : State, s.pstate ≠ .idle →
    (∀ len, exec (.frame len) s = .next { s with heldFrames := s.heldFrames ++ [⟨len, s.dataPort⟩] }) ∧
    exec .mute s = .next { s with heldMutes := s.heldMutes + 1 }) ∧
  (∀ s : State, s.pstate ≠ .wrBass → exec .bassAck s = .refused .strayBassAck) ∧
  (∀ s : State, s.pstate ≠ .wrMid → exec .midAck s = .refused .strayMidAck) ∧
  (∀ s : State, s.pstate ≠ .compute → exec .sampleStep s = .next s)

/-- A stalled sink: no step but the matching acknowledgement and RESET moves P out of a sink wait (42_pipeline.md R160,
70_reset_and_hazards.md R288). -/
def Obligations.SinkWaitEndsOnlyByItsAcknowledgement : Prop :=
  ∀ (s t : State), step s = .next t → s.resetNext = false →
    (s.pstate = .wrBass → (∀ data rest, s.agenda ≠ .issue 0x12000000#32 data :: rest) → t.pstate = .wrBass) ∧
    (s.pstate = .wrMid → (∀ data rest, s.agenda ≠ .issue 0x13000000#32 data :: rest) → t.pstate = .wrMid)

/-- End to end: a frame that is issued, computed and acknowledged by both sinks leaves P idle, and its two sink writes are
the bands of its samples, bass first, of the same byte count, with the volume factor of the one read (42_pipeline.md R151
to R155, R159). The port keeps no older FRAME; behind one it would wait (log 7). The agenda is the model's (log 5), and at volume 0 the mid band follows R153's pseudocode
(log 24). -/
def Obligations.IssuedFrameDeliversItsBands : Prop :=
  ∀ (s : State) (w : Word) (len : BitVec 24) (data d1 d2 : List Byte) (rest : List Event),
    s.pstate = .idle → s.heldFrames = [] → decodeWord w = .ok (.frame len) → 2 ≤ len.toNat → len.toNat ≤ 8192 →
    data.length = len.toNat →
    s.agenda = .issue w data ::
      (List.replicate (len.toNat / 2) .pSelf ++ .issue 0x12000000#32 d1 :: .issue 0x13000000#32 d2 :: rest) →
    ∃ t bs ms lp, frameBands s.party (volFactor s.vol) s.lpY (samplesOf data) = (bs, ms, lp) ∧
      runSteps (len.toNat / 2 + 3) s = .next t ∧ t.pstate = .idle ∧ t.agenda = rest ∧ t.lpY = lp ∧
      t.history = s.history ++ [.sinkWrite .bass (bytesOf bs), .sinkWrite .mid (bytesOf ms)] ∧
      (bytesOf bs).length = 2 * (len.toNat / 2) ∧ (bytesOf ms).length = 2 * (len.toNat / 2)

/-- P finishes a frame unaided: with no event left, as many steps as samples remain bring it to the bass write, and nothing
but P's own registers changes (42_pipeline.md R153, R161; 60_exceptions.md R263). The empty agenda is the model's (log 6). -/
def Obligations.ComputingFinishesUnaided : Prop :=
  ∀ (s : State), s.pstate = .compute → s.pidx.toNat < s.pn.toNat → s.pn.toNat ≤ 4096 → s.agenda = [] →
    ∃ t bytes, runSteps (s.pn.toNat - s.pidx.toNat) s = .next t ∧ t.pstate = .wrBass ∧
      t.history = s.history ++ [.sinkWrite .bass bytes] ∧ bytes.length = 2 * s.pn.toNat ∧
      KeepsRegs [.PSTATE, .PIDX, .PWLEN, .LP_Y] s t

/-- Session start: the words of SESSION_BEGIN, from an idle P, clear the filter, write 8192 zero bytes to each sink, bass
first, and leave P idle (30_encoding.md R106, 70_reset_and_hazards.md R282). -/
def Obligations.SessionBeginSilencesBothSinks : Prop :=
  ∀ (s : State) (es rest : List Event), Pseudo.sessionBegin.expand = some es → s.pstate = .idle →
    s.agenda = es ++ rest →
    ∃ t, runSteps 4 s = .next t ∧ t.pstate = .idle ∧ t.lpY = 0#32 ∧ t.agenda = rest ∧
      t.history = s.history ++
        [.sinkWrite .bass (List.replicate 8192 0#8), .sinkWrite .mid (List.replicate 8192 0#8)]

/-! ## C5 -/

/-- 43_encoder.md R181: ENC_START re-initialises the four E registers, with one read of `VOL`, and nothing else. -/
def Obligations.EncStartReinitialises : Prop :=
  ∀ (s : State) (a : Bool), ∃ t, exec (.encStart a) s = .next t ∧ t.encRun = true ∧ t.encPrevA = a ∧
    t.encLastEdge = 0#32 ∧ t.encVol = s.vol ∧
    KeepsRegs [.ENC_RUN, .ENC_PREV_A, .ENC_LAST_EDGE, .ENC_VOL] s t ∧ KeepsBuffers s t ∧ KeepsPorts s t ∧
    t.history = s.history

/-- 43_encoder.md R182: ENC_STOP clears `ENC_RUN` and nothing else; a stopped encoder it leaves as it is. -/
def Obligations.EncStopClearsTheRunFlag : Prop :=
  ∀ (s : State), ∃ t, exec .encStop s = .next t ∧ t.encRun = false ∧ (s.encRun = false → t = s) ∧
    KeepsRegs [.ENC_RUN] s t ∧ KeepsBuffers s t ∧ KeepsPorts s t ∧ t.history = s.history

/-- 43_encoder.md R186, with R183 (step size) and R184 (direction): a poll of a stopped encoder or without an edge of line A
changes nothing; an edge sets `VOL` and `ENC_VOL` from `ENC_VOL`, records the time and the level, and fires an armed
notification once with the value written. -/
def Obligations.EncPollFollowsLineA : Prop :=
  ∀ (s : State) (a b : Bool), ∃ t, exec (.encPoll a b) s = .next t ∧
    (s.encRun = false ∨ a = s.encPrevA → t = s) ∧
    (s.encRun = true → a ≠ s.encPrevA → ∃ delta step v : Nat,
      delta = (s.timeMs.toNat + 2 ^ 32 - s.encLastEdge.toNat) % 2 ^ 32 ∧
      step = (if delta < 50 then 5 else if delta < 120 then 3 else if delta < 300 then 2 else 1) ∧
      v = (if b ≠ a then min 127 (s.encVol.toNat + step) else s.encVol.toNat - step) ∧
      t.volByte.toNat = v ∧ t.encVolByte.toNat = v ∧ t.encLastEdge = s.timeMs ∧ t.encPrevA = a ∧
      t.notifyArmed = false ∧
      t.history = s.history ++ (if s.notifyArmed = true then [.notify (BitVec.ofNat 8 v)] else []) ∧
      KeepsRegs [.VOL, .ENC_VOL, .ENC_LAST_EDGE, .ENC_PREV_A, .NOTIFY_ARMED] s t ∧ KeepsBuffers s t ∧
      KeepsPorts s t)

/-- 43_encoder.md R185: the saturating update snaps to the bound it would overshoot. -/
def Obligations.EncoderUpdateSaturates : Prop :=
  ∀ (v : BitVec 7) (step : Nat),
    (127 < v.toNat + step → (encNext v step true).toNat = 127) ∧
    (v.toNat + step ≤ 127 → (encNext v step true).toNat = v.toNat + step) ∧
    (v.toNat < step → (encNext v step false).toNat = 0) ∧
    (step ≤ v.toNat → (encNext v step false).toNat = v.toNat - step)

/-- 43_encoder.md R189: `VOL` stays in [0, 127], which holds of every state because the model stores seven bits of it (log 12);
repeated increases reach 127 and stay there, repeated decreases reach 0 and stay there. -/
def Obligations.RepeatedStepsReachTheBound : Prop :=
  (∀ s : State, s.volByte.toNat ≤ 127 ∧ s.encVolByte.toNat ≤ 127) ∧
  ∀ (v : BitVec 7) (deltas : List (BitVec 32)), 127 ≤ deltas.length →
    (deltas.foldl (fun u d => encNext u (encStep d) true) v).toNat = 127 ∧
    (deltas.foldl (fun u d => encNext u (encStep d) false) v).toNat = 0

/-- A remote volume is overwritten by the next edge, which counts from the encoder's own copy (43_encoder.md R187,
70_reset_and_hazards.md R290). -/
def Obligations.RemoteVolumeIsOverwrittenByTheNextEdge : Prop :=
  ∀ (s : State) (v : BitVec 16) (a b : Bool), s.encRun = true → a ≠ s.encPrevA →
    ∃ t u, exec (.volSetAbs v) s = .next t ∧ t.volByte.toNat = min v.toNat 127 ∧ t.encVol = s.encVol ∧
      exec (.encPoll a b) t = .next u ∧
      u.vol = encNext s.encVol (encStep (s.timeMs - s.encLastEdge)) (encUp a b)

/-! ## C6 -/

/-- 44_button.md R202 to R206: the timeout dispatch of a pending gesture, with the button released: one click plays or
pauses and flips the cached flag, two and three skip, four toggle party mode and its line, five or more do nothing; the
gesture is consumed. -/
def Obligations.PendingGestureIsDispatchedByCount : Prop :=
  ∀ (s : State), s.bstate = .idle → 0 < s.bClicks.toNat → 400 < (s.timeMs - s.bLastClick).toNat →
    ∃ t, exec (.btnPoll true) s = .next t ∧ t.bClicks = 0 ∧
      (s.bClicks.toNat = 1 → t.isPlaying = !s.isPlaying ∧ t.party = s.party ∧
        t.history = s.history ++
          [.cmd (if s.isPlaying = true then .pause else .play) .press,
           .cmd (if s.isPlaying = true then .pause else .play) .release]) ∧
      (s.bClicks.toNat = 2 → t.isPlaying = s.isPlaying ∧ t.party = s.party ∧
        t.history = s.history ++ [.cmd .next .press, .cmd .next .release]) ∧
      (s.bClicks.toNat = 3 → t.isPlaying = s.isPlaying ∧ t.party = s.party ∧
        t.history = s.history ++ [.cmd .prev .press, .cmd .prev .release]) ∧
      (s.bClicks.toNat = 4 → t.isPlaying = s.isPlaying ∧ t.party = !s.party ∧ t.indOut = !s.party ∧
        t.history = s.history) ∧
      (5 ≤ s.bClicks.toNat → t.isPlaying = s.isPlaying ∧ t.party = s.party ∧ t.history = s.history) ∧
      KeepsRegs [.B_CLICKS, .IS_PLAYING, .PARTY] s t ∧ KeepsBuffers s t ∧ KeepsPorts s t

/-- A new press with no gesture due: it counts on within 400 ms of the last press and starts again at 1 after it; the count
saturates at 255 (44_button.md R201, R209). -/
def Obligations.NewPressCounts : Prop :=
  ∀ (s : State), s.bstate = .idle → s.bClicks.toNat = 0 ∨ (s.timeMs - s.bLastClick).toNat ≤ 400 →
    ∃ t, exec (.btnPoll false) s = .next t ∧ t.bstate = .pressed ∧ t.bLastClick = s.timeMs ∧
      t.bPressStart = s.timeMs ∧ t.bClicks.toNat = min 255 (s.bClicks.toNat + 1) ∧
      KeepsRegs [.BSTATE, .B_CLICKS, .B_LAST_CLICK, .B_PRESS_START] s t ∧ KeepsBuffers s t ∧ KeepsPorts s t ∧
      t.history = s.history

/-- The dispatch comes before the new press: a press at the poll at which a gesture's timeout has run out dispatches exactly
what the released poll would have dispatched, and starts a new gesture at 1 (44_button.md R201, 60_exceptions.md R254). -/
def Obligations.DispatchComesBeforeTheNewPress : Prop :=
  ∀ (s : State), s.bstate = .idle → 0 < s.bClicks.toNat → 400 < (s.timeMs - s.bLastClick).toNat →
    ∃ t u, exec (.btnPoll true) s = .next t ∧ exec (.btnPoll false) s = .next u ∧
      u.history = t.history ∧ u.isPlaying = t.isPlaying ∧ u.party = t.party ∧ u.bClicks = 1 ∧
      u.bstate = .pressed ∧ u.bLastClick = s.timeMs ∧ u.bPressStart = s.timeMs ∧
      KeepsRegs [.BSTATE, .B_CLICKS, .B_LAST_CLICK, .B_PRESS_START, .IS_PLAYING, .PARTY] s u ∧ KeepsBuffers s u ∧
      KeepsPorts s u

/-- Polls that change nothing: released in `B_IDLE` with no gesture due, held in `B_PRESSED` up to the threshold, and held in
`B_AWAIT_RELEASE` (44_button.md R201, R208). -/
def Obligations.QuietButtonPolls : Prop :=
  ∀ (s : State),
    (s.bstate = .idle → s.bClicks.toNat = 0 ∨ (s.timeMs - s.bLastClick).toNat ≤ 400 →
      exec (.btnPoll true) s = .next s) ∧
    (s.bstate = .pressed → (s.timeMs - s.bPressStart).toNat ≤ 3000 → exec (.btnPoll false) s = .next s) ∧
    (s.bstate = .awaitRelease → exec (.btnPoll false) s = .next s)

/-- 44_button.md R207: the long press toggles `POWER_ON` and the relay line, emits the session call of the new value, and
moves B to `B_AWAIT_RELEASE` in the same step; no step leaves that state except a release (and RESET). -/
def Obligations.LongPressTogglesPower : Prop :=
  (∀ (i : Instr) (s t : State), exec i s = .next t → s.bstate = .awaitRelease → i ≠ .btnPoll true → (∀ a0, i ≠ .reset a0) →
    t.bstate = .awaitRelease) ∧
  ∀ (s : State), s.bstate = .pressed → 3000 < (s.timeMs - s.bPressStart).toNat →
    ∃ t, exec (.btnPoll false) s = .next t ∧ t.bstate = .awaitRelease ∧ t.powerOn = !s.powerOn ∧
      t.relayOut = !s.powerOn ∧
      t.history = s.history ++ [.session (if t.powerOn = true then .start else .stop)] ∧
      KeepsRegs [.BSTATE, .POWER_ON] s t ∧ KeepsBuffers s t ∧ KeepsPorts s t

/-- A release: from `B_PRESSED` the click stays pending, even past the hold threshold; from `B_AWAIT_RELEASE` the count is
cleared. Nothing is dispatched (44_button.md R201, R208). -/
def Obligations.ReleaseReturnsToIdle : Prop :=
  ∀ (s : State), s.bstate = .pressed ∨ s.bstate = .awaitRelease →
    ∃ t, exec (.btnPoll true) s = .next t ∧ t.bstate = .idle ∧
      t.bClicks = (if s.bstate = .awaitRelease then 0 else s.bClicks) ∧
      KeepsRegs [.BSTATE, .B_CLICKS] s t ∧ KeepsBuffers s t ∧ KeepsPorts s t ∧ t.history = s.history

/-- However long and however often a press is polled as held, it gives at most one session event and no other event, and it
gives one exactly when B has moved to `B_AWAIT_RELEASE`: exactly when one of the polls fell more than 3000 ms after the press
(44_button.md R210 (c)). -/
def Obligations.HeldPressGivesOneSessionEvent : Prop :=
  ∀ (ds : List (BitVec 24)) (s : State), s.bstate = .pressed →
    ∃ t, holdButton ds s = .next t ∧
      ((t.bstate = .pressed ∧ t.history = s.history ∧ t.powerOn = s.powerOn) ∨
       (t.bstate = .awaitRelease ∧ t.powerOn = !s.powerOn ∧
        t.history = s.history ++ [.session (if s.powerOn = true then .stop else .start)])) ∧
      (t.bstate = .awaitRelease ↔
        ∃ k, k < ds.length ∧ 3000 < (timeAfter (ds.take (k + 1)) s.timeMs - s.bPressStart).toNat) ∧
      t.timeMs = timeAfter ds s.timeMs ∧ KeepsRegs [.BSTATE, .POWER_ON, .TIME_MS] s t

/-! ## C4 and the host ports -/

/-- 45_shared_ports.md R231: VOL_SET_ABS saturates to 127 and writes `VOL` only: no notification, `ENC_VOL` unchanged. -/
def Obligations.VolSetAbsSaturates : Prop :=
  ∀ (s : State) (v : BitVec 16), ∃ t, exec (.volSetAbs v) s = .next t ∧ t.volByte.toNat = min v.toNat 127 ∧
    KeepsRegs [.VOL] s t ∧ KeepsBuffers s t ∧ KeepsPorts s t ∧ t.history = s.history

/-- 45_shared_ports.md R232: NOTIFY_ARM sets the one flag; arming twice is arming once. -/
def Obligations.NotifyArmSetsTheFlag : Prop :=
  ∀ (s : State), ∃ t, exec .notifyArm s = .next t ∧ t.notifyArmed = true ∧ exec .notifyArm t = .next t ∧
    KeepsRegs [.NOTIFY_ARMED] s t ∧ KeepsBuffers s t ∧ KeepsPorts s t ∧ t.history = s.history

/-- 45_shared_ports.md R233: PLAY_STATUS writes the cached playing flag only. -/
def Obligations.PlayStatusWritesTheFlag : Prop :=
  ∀ (s : State) (p : Bool), ∃ t, exec (.playStatus p) s = .next t ∧ t.isPlaying = p ∧
    KeepsRegs [.IS_PLAYING] s t ∧ KeepsBuffers s t ∧ KeepsPorts s t ∧ t.history = s.history

/-- 45_shared_ports.md R234: TICK_MS adds to `TIME_MS` modulo 2^32 and triggers nothing. -/
def Obligations.TickAdvancesTheTimeBase : Prop :=
  ∀ (s : State) (d : BitVec 24), ∃ t, exec (.tickMs d) s = .next t ∧
    t.timeMs.toNat = (s.timeMs.toNat + d.toNat) % 2 ^ 32 ∧
    KeepsRegs [.TIME_MS] s t ∧ KeepsBuffers s t ∧ KeepsPorts s t ∧ t.history = s.history

/-! ## Reset -/

/-- 70_reset_and_hazards.md R281 and R280: RESET is enabled in every state and gives every register its reset value; the
output history stays and no event is emitted; the output lines follow. `VOL_RESET` and `POWER_RESET` are the open
parameters. Two clauses are the model's: every byte of the three buffers is its free byte (DESIGN CHOICE, log 4), and what H
has at the ports and still to issue stays (DEDUCED, log 9). -/
def Obligations.ResetGivesEveryRegisterItsValue : Prop :=
  ∀ (s : State) (a0 : Bool), ∃ t, exec (.reset a0) s = .next t ∧
    t.pstate = .idle ∧ t.pn = 0 ∧ t.pidx = 0 ∧ t.pwlen = 0 ∧ t.pvf = 0#32 ∧ t.lpY = 0#32 ∧
    t.vol = Config.volReset ∧ t.encVol = Config.volReset ∧ t.party = false ∧ t.isPlaying = false ∧
    t.notifyArmed = false ∧ t.powerOn = Config.powerReset ∧ t.timeMs = 0#32 ∧ t.encRun = true ∧ t.encPrevA = a0 ∧
    t.encLastEdge = 0#32 ∧ t.bstate = .idle ∧ t.bClicks = 0#8 ∧ t.bLastClick = 0#32 ∧ t.bPressStart = 0#32 ∧
    (∀ b off, t.readByte b off = Config.freeBufByte t.freeBuf b off) ∧
    t.dataPort = s.dataPort ∧ t.heldFrames = s.heldFrames ∧ t.heldMutes = s.heldMutes ∧ t.agenda = s.agenda ∧
    t.history = s.history ∧ t.indOut = false ∧ t.relayOut = Config.powerReset

/-! ## Whole-machine rules -/

/-- 45_shared_ports.md R236: the writers of the unguarded flags, RESET aside. -/
def Obligations.FlagsHaveTheirWriters : Prop :=
  ∀ (i : Instr) (s t : State), exec i s = .next t → (∀ a0, i ≠ .reset a0) →
    (t.party ≠ s.party → (∃ l, i = .btnPoll l) ∧ s.bClicks.toNat = 4) ∧
    (t.powerOn ≠ s.powerOn → i = .btnPoll false ∧ s.bstate = .pressed) ∧
    (t.isPlaying ≠ s.isPlaying → ((∃ l, i = .btnPoll l) ∧ s.bClicks.toNat = 1) ∨ ∃ p, i = .playStatus p) ∧
    (t.notifyArmed = true → s.notifyArmed = false → i = .notifyArm) ∧
    (t.notifyArmed = false → s.notifyArmed = true → ∃ a b, i = .encPoll a b)

/-- Only an edge of a running encoder, the remote handler and RESET write `VOL`; only ENC_START and an edge (and RESET) write
`ENC_VOL`; only TICK_MS (and RESET) moves the time (45_shared_ports.md R230, 10_state.md R37, R43). -/
def Obligations.VolumeAndTimeHaveTheirWriters : Prop :=
  ∀ (i : Instr) (s t : State), exec i s = .next t → (∀ a0, i ≠ .reset a0) →
    (t.vol ≠ s.vol → (∃ v, i = .volSetAbs v) ∨ ∃ a b, i = .encPoll a b ∧ s.encRun = true ∧ a ≠ s.encPrevA) ∧
    (t.encVol ≠ s.encVol → (∃ a, i = .encStart a) ∨ ∃ a b, i = .encPoll a b ∧ s.encRun = true ∧ a ≠ s.encPrevA) ∧
    (t.timeMs ≠ s.timeMs → ∃ d, i = .tickMs d)

/-- 30_encoding.md R96: each step appends its events to the output history and changes nothing of it; each event comes from
the operations the table names, within the table's bounds; and the two output lines are `PARTY` and `POWER_ON`. -/
def Obligations.HistoryGrowsByTheTableOfEvents : Prop :=
  ∀ (i : Instr) (s t : State), exec i s = .next t →
    (∃ es, t.history = s.history ++ es ∧ ∀ e ∈ es, mayEmit i e) ∧ t.indOut = t.party ∧ t.relayOut = t.powerOn

/-! ## Invariants and headline results -/

/-- From every state that meets the invariant, every step that gives a next state keeps it: the buffers stay canonical and
in range, P's registers and buffers agree with `PSTATE`, and B's with `BSTATE`. -/
def Obligations.StepKeepsTheInvariant : Prop := ∀ s t : State, s.Inv → step s = .next t → t.Inv

/-- The state at power-up meets the invariants. The handshake and the port invariant hold there because the history is empty
(DESIGN CHOICE, log 18) and no word is kept (DESIGN CHOICE, log 7); a later RESET keeps its history, which may end in a bass
write without its mid write. -/
def Obligations.ResetStateMeetsTheInvariants : Prop :=
  State.reset.Inv ∧ State.reset.NumericInv ∧ State.reset.handshake ∧ State.reset.portsInv

/-- `LP_Y` stays finite and within 32768.0, and `PVF` within [0, 1], from every state in which they are; and there the scaled
sample, the filter's next value and both bands before narrowing are finite, so no NaN or infinity ever arises (40_lpf.md R125,
41_band_stage.md R136). -/
def Obligations.StepKeepsTheFilterBounded : Prop :=
  (∀ s t : State, s.NumericInv → step s = .next t → t.NumericInv) ∧
  ∀ (s : State) (x lp g : F32), s.NumericInv →
    x = fpMul (fpOfInt (s.readSample .inBuf s.pidx.toNat).toInt) s.pvf →
    lp = fpAdd (fpMul 0x3D23D70A#32 x) (fpMul 0x3F75C28F#32 s.lpY) →
    g = (if s.party = true then 0x3F800000#32 else 0x3E99999A#32) →
    fpIsFinite x = true ∧ fpIsFinite lp = true ∧ fpIsFinite (fpMul x g) = true ∧ fpIsFinite (fpMul (fpSub x lp) g) = true

/-- Under every order of steps without a RESET, the sink writes come in pairs, bass then mid, of the same byte count, with no
other write between them (42_pipeline.md R159). -/
def Obligations.SinkWritesComeInPairs : Prop :=
  ∀ s t : State, s.handshake → step s = .next t → s.resetNext = false → t.handshake

/-- A step that keeps H's duties is never refused: it gives a next state, and keeps what the ports hold well-formed
(60_exceptions.md R252, 70_reset_and_hazards.md R282). -/
def Obligations.DutifulStepIsNeverRefused : Prop :=
  ∀ s : State, s.Inv → s.portsInv → s.dutiful → ∃ t, step s = .next t ∧ t.Inv ∧ t.portsInv

/-- The unspecified contents of the buffers are never observable (10_state.md R27, R28): two states that meet the invariant
and differ in those contents only take steps to states that again differ in them only, with the same registers and the
same output history. -/
def Obligations.UnspecifiedContentsAreNeverObserved : Prop :=
  ∀ (s t : State) (k : Nat), s.Inv → step s = .next t →
    ∃ j, step { s with freeBuf := k } = .next { t with freeBuf := j }
end

