-- ==== Sys2Proof/Laws/Decode.lean ====
section
/-! SUPPORT. What the decoder answers, once, and the fields of an operation word. -/

namespace Sys2Proof

/-! ## The fields of a word -/

@[simp] theorem opField_opWord (op : BitVec 8) (arg : BitVec 24) : opField (opWord op arg) = op := by
  apply BitVec.eq_of_getLsbD_eq
  intro i hi
  have h : ¬24 + i < 24 := by omega
  rw [opField, opWord, BitVec.getLsbD_extractLsb', BitVec.getLsbD_append, if_neg h]
  simp [hi]

@[simp] theorem argField_opWord (op : BitVec 8) (arg : BitVec 24) : argField (opWord op arg) = arg := by
  apply BitVec.eq_of_getLsbD_eq
  intro i hi
  rw [argField, opWord, BitVec.getLsbD_extractLsb', BitVec.getLsbD_append, if_pos (by omega)]
  simp [hi]

/-- A word is its two fields (30_encoding.md R90). -/
theorem opWord_fields (w : Word) : opWord (opField w) (argField w) = w := by
  apply BitVec.eq_of_getLsbD_eq
  intro i hi
  rw [opWord, BitVec.getLsbD_append]
  split
  · next h => rw [argField, BitVec.getLsbD_extractLsb']; simp [h]
  · next h =>
    have h8 : i - 24 < 8 := by omega
    have hi' : 24 + (i - 24) = i := by omega
    rw [opField, BitVec.getLsbD_extractLsb', hi']; simp [h8]

/-- A one-bit operand read back. -/
theorem bitArg_fields (b : Bool) : (bitArg b).extractLsb' 1 23 = 0#23 ∧ (bitArg b).getLsbD 0 = b := by
  cases b <;> decide

/-! ## The decoder's answers -/

theorem ifReservedZero_ok {zero : Bool} {j i : Instr} (h : ifReservedZero zero j = .ok i) : zero = true ∧ i = j := by
  cases zero
  · cases h
  · cases h; exact ⟨rfl, rfl⟩

/-- A word that decodes has one of the thirteen operation codes, its reserved operand bits are 0, and the instruction's
operands are its fields (30_encoding.md R91, R94). -/
theorem decodeWord_ok {w : Word} {i : Instr} (h : decodeWord w = .ok i) :
    (opField w = 0x10#8 ∧ i = .frame (argField w)) ∨
    (opField w = 0x11#8 ∧ argField w = 0#24 ∧ i = .mute) ∨
    (opField w = 0x12#8 ∧ argField w = 0#24 ∧ i = .bassAck) ∨
    (opField w = 0x13#8 ∧ argField w = 0#24 ∧ i = .midAck) ∨
    (opField w = 0x14#8 ∧ argField w = 0#24 ∧ i = .lpfClear) ∨
    (opField w = 0x20#8 ∧ (argField w).extractLsb' 1 23 = 0#23 ∧
      i = .encStart ((argField w).getLsbD 0)) ∨
    (opField w = 0x21#8 ∧ argField w = 0#24 ∧ i = .encStop) ∨
    (opField w = 0x22#8 ∧ (argField w).extractLsb' 2 22 = 0#22 ∧
      i = .encPoll ((argField w).getLsbD 0) ((argField w).getLsbD 1)) ∨
    (opField w = 0x30#8 ∧ (argField w).extractLsb' 1 23 = 0#23 ∧
      i = .btnPoll ((argField w).getLsbD 0)) ∨
    (opField w = 0x40#8 ∧ (argField w).extractLsb' 16 8 = 0#8 ∧
      i = .volSetAbs ((argField w).extractLsb' 0 16)) ∨
    (opField w = 0x41#8 ∧ argField w = 0#24 ∧ i = .notifyArm) ∨
    (opField w = 0x42#8 ∧ (argField w).extractLsb' 1 23 = 0#23 ∧
      i = .playStatus ((argField w).getLsbD 0)) ∨
    (opField w = 0x50#8 ∧ i = .tickMs (argField w)) := by
  unfold decodeWord at h
  by_cases c : opField w = 0x10#8
  · rw [if_pos c] at h; cases h; exact .inl ⟨c, rfl⟩
  rw [if_neg c] at h
  right; clear c
  by_cases c : opField w = 0x11#8
  · rw [if_pos c] at h; obtain ⟨z, rfl⟩ := ifReservedZero_ok h; exact .inl ⟨c, eq_of_beq z, rfl⟩
  rw [if_neg c] at h
  right; clear c
  by_cases c : opField w = 0x12#8
  · rw [if_pos c] at h; obtain ⟨z, rfl⟩ := ifReservedZero_ok h; exact .inl ⟨c, eq_of_beq z, rfl⟩
  rw [if_neg c] at h
  right; clear c
  by_cases c : opField w = 0x13#8
  · rw [if_pos c] at h; obtain ⟨z, rfl⟩ := ifReservedZero_ok h; exact .inl ⟨c, eq_of_beq z, rfl⟩
  rw [if_neg c] at h
  right; clear c
  by_cases c : opField w = 0x14#8
  · rw [if_pos c] at h; obtain ⟨z, rfl⟩ := ifReservedZero_ok h; exact .inl ⟨c, eq_of_beq z, rfl⟩
  rw [if_neg c] at h
  right; clear c
  by_cases c : opField w = 0x20#8
  · rw [if_pos c] at h; obtain ⟨z, rfl⟩ := ifReservedZero_ok h; exact .inl ⟨c, eq_of_beq z, rfl⟩
  rw [if_neg c] at h
  right; clear c
  by_cases c : opField w = 0x21#8
  · rw [if_pos c] at h; obtain ⟨z, rfl⟩ := ifReservedZero_ok h; exact .inl ⟨c, eq_of_beq z, rfl⟩
  rw [if_neg c] at h
  right; clear c
  by_cases c : opField w = 0x22#8
  · rw [if_pos c] at h; obtain ⟨z, rfl⟩ := ifReservedZero_ok h; exact .inl ⟨c, eq_of_beq z, rfl⟩
  rw [if_neg c] at h
  right; clear c
  by_cases c : opField w = 0x30#8
  · rw [if_pos c] at h; obtain ⟨z, rfl⟩ := ifReservedZero_ok h; exact .inl ⟨c, eq_of_beq z, rfl⟩
  rw [if_neg c] at h
  right; clear c
  by_cases c : opField w = 0x40#8
  · rw [if_pos c] at h; obtain ⟨z, rfl⟩ := ifReservedZero_ok h; exact .inl ⟨c, eq_of_beq z, rfl⟩
  rw [if_neg c] at h
  right; clear c
  by_cases c : opField w = 0x41#8
  · rw [if_pos c] at h; obtain ⟨z, rfl⟩ := ifReservedZero_ok h; exact .inl ⟨c, eq_of_beq z, rfl⟩
  rw [if_neg c] at h
  right; clear c
  by_cases c : opField w = 0x42#8
  · rw [if_pos c] at h; obtain ⟨z, rfl⟩ := ifReservedZero_ok h; exact .inl ⟨c, eq_of_beq z, rfl⟩
  rw [if_neg c] at h
  right; clear c
  by_cases c : opField w = 0x50#8
  · rw [if_pos c] at h; cases h; exact ⟨c, rfl⟩
  rw [if_neg c] at h
  cases h

/-- An operation word never decodes to RESET or to an internal operation (30_encoding.md R101, R104). -/
theorem decodeWord_isOperation {w : Word} {i : Instr} (h : decodeWord w = .ok i) :
    (∀ a, i ≠ .reset a) ∧ i ≠ .c1Hold ∧ (∀ x, i ≠ .c1Step x) ∧ i ≠ .c1Clear ∧ (∀ x, i ≠ .bandEval x) ∧ i ≠ .sampleStep := by
  have := decodeWord_ok h
  refine ⟨fun a hi => ?_, fun hi => ?_, fun x hi => ?_, fun hi => ?_, fun x hi => ?_, fun hi => ?_⟩ <;> subst hi <;> simp at this

@[simp] theorem decode_encode_frame (len : BitVec 24) : decode (encode (.frame len)) = .ok (.frame len) := by
  simp only [encode, decode, decodeWord, opField_opWord, argField_opWord]
  rfl

@[simp] theorem decode_encode_mute : decode (encode .mute) = .ok .mute := by decide

end Sys2Proof
end

