-- ==== Sys2Proof/Laws/Float.lean ====
section
/-! SUPPORT. The binary32 primitives as integer arithmetic: what a magnitude is worth, and that the one rounding step picks the
nearest magnitude, the even one of two equally near. -/

namespace Sys2Proof.Machine

/-! ## Fields as numbers -/

theorem fpExp_eq (a : F32) : fpExp a = a.toNat / 2 ^ 23 % 256 := by
  simp only [fpExp, BitVec.extractLsb'_toNat, Nat.shiftRight_eq_div_pow]

theorem fpFrac_eq (a : F32) : fpFrac a = a.toNat % 2 ^ 23 := by
  simp only [fpFrac, BitVec.extractLsb'_toNat, Nat.shiftRight_eq_div_pow]
  omega

/-- The exponent and fraction fields together. -/
def fpBits (a : F32) : Nat := a.toNat % 2 ^ 31

theorem fpIsFinite_iff (a : F32) : fpIsFinite a = true ↔ fpBits a < infBits := by
  unfold fpIsFinite fpBits infBits
  rw [bne_iff_ne, fpExp_eq]
  omega

/-- The magnitude of exponent and fraction fields, in units of 2^-149. -/
def magOfBits (m : Nat) : Nat :=
  if m / 2 ^ 23 = 0 then m % 2 ^ 23 else (2 ^ 23 + m % 2 ^ 23) * 2 ^ (m / 2 ^ 23 - 1)

theorem fpMag_eq (a : F32) : fpMag a = magOfBits (fpBits a) := by
  unfold fpMag magOfBits fpBits
  rw [fpExp_eq, fpFrac_eq]
  have h1 : a.toNat % 2 ^ 31 / 2 ^ 23 = a.toNat / 2 ^ 23 % 256 := by omega
  have h2 : a.toNat % 2 ^ 31 % 2 ^ 23 = a.toNat % 2 ^ 23 := by omega
  rw [h1, h2]

theorem fpBits_pack (neg : Bool) {m : Nat} (h : m ≤ infBits) : fpBits (fpPack neg m) = m := by
  unfold infBits at h
  unfold fpBits fpPack
  rw [BitVec.toNat_ofNat]
  cases neg
  · simp only [Bool.false_eq_true, if_false]; omega
  · simp only [if_true]; omega

theorem fpSign_pack (neg : Bool) {m : Nat} (h : m ≤ infBits) : fpSign (fpPack neg m) = neg := by
  unfold infBits at h
  unfold fpSign fpPack
  rw [BitVec.msb_eq_decide, BitVec.toNat_ofNat]
  cases neg
  · simp only [Bool.false_eq_true, if_false]; exact decide_eq_false (by omega)
  · simp only [if_true]; exact decide_eq_true (by omega)

theorem fpMag_pack (neg : Bool) {m : Nat} (h : m ≤ infBits) : fpMag (fpPack neg m) = magOfBits m := by
  rw [fpMag_eq, fpBits_pack neg h]

/-- The lowest bit of a value is the lowest bit of its fraction. -/
theorem getLsbD_zero_pack (neg : Bool) (m : Nat) : (fpPack neg m).getLsbD 0 = decide (m % 2 = 1) := by
  rw [BitVec.getLsbD, Nat.testBit_zero]
  congr 1
  unfold fpPack
  rw [BitVec.toNat_ofNat]
  cases neg
  · simp only [Bool.false_eq_true, if_false]; exact propext ⟨fun _ => by omega, fun _ => by omega⟩
  · simp only [if_true]; exact propext ⟨fun _ => by omega, fun _ => by omega⟩

theorem fpVal_natAbs (a : F32) : (fpVal a).natAbs = fpMag a := by
  unfold fpVal
  split <;> omega

@[simp] theorem fpBits_neg (a : F32) : fpBits (fpNeg a) = fpBits a := by
  unfold fpBits fpNeg
  apply Nat.eq_of_testBit_eq
  intro i
  rw [Nat.testBit_mod_two_pow, Nat.testBit_mod_two_pow]
  by_cases hi : i < 31
  · simp only [hi, decide_true, Bool.true_and]
    have : ∀ x : F32, x.toNat.testBit i = x.getLsbD i := fun _ => rfl
    rw [this, this, BitVec.getLsbD_xor]
    have h31 : (0x80000000#32).getLsbD i = false := by
      have : ∀ j : Fin 31, (0x80000000#32).getLsbD j = false := by decide
      exact this ⟨i, hi⟩
    rw [h31, Bool.xor_false]
  · simp only [hi, decide_false, Bool.false_and]

@[simp] theorem fpMag_neg (a : F32) : fpMag (fpNeg a) = fpMag a := by rw [fpMag_eq, fpMag_eq, fpBits_neg]

@[simp] theorem fpIsFinite_neg (a : F32) : fpIsFinite (fpNeg a) = fpIsFinite a :=
  Bool.eq_iff_iff.mpr (by rw [fpIsFinite_iff, fpIsFinite_iff, fpBits_neg])

@[simp] theorem fpSign_neg (a : F32) : fpSign (fpNeg a) = !fpSign a := by
  unfold fpSign fpNeg
  rw [BitVec.msb_xor, show (0x80000000#32).msb = true by decide, Bool.xor_true]

@[simp] theorem fpVal_neg (a : F32) : fpVal (fpNeg a) = -fpVal a := by
  unfold fpVal
  rw [fpSign_neg, fpMag_neg]
  cases fpSign a
  · rfl
  · simp only [Bool.not_true, Bool.false_eq_true, if_false, if_true, Int.neg_neg]

/-! ## Magnitudes on a binade's grid -/

/-- The magnitudes `k * 2^e` of a binade, its upper end included; for `e = 0` from 0 on. -/
theorem magOfBits_grid {e k : Nat} (hk : k ≤ 2 ^ 24) (he : 2 ^ 23 ≤ k ∨ e = 0) : magOfBits (2 ^ 23 * e + k) = k * 2 ^ e := by
  unfold magOfBits
  rcases Nat.lt_or_ge k (2 ^ 23) with h | h
  · have h0 : e = 0 := by omega
    subst h0
    have h1 : (2 ^ 23 * 0 + k) / 2 ^ 23 = 0 := by omega
    have h2 : (2 ^ 23 * 0 + k) % 2 ^ 23 = k := by omega
    rw [if_pos h1, h2, Nat.pow_zero, Nat.mul_one]
  · rcases Nat.lt_or_ge k (2 ^ 24) with h' | h'
    · have h1 : (2 ^ 23 * e + k) / 2 ^ 23 = e + 1 := by omega
      have h2 : (2 ^ 23 * e + k) % 2 ^ 23 = k - 2 ^ 23 := by omega
      have h3 : 2 ^ 23 + (k - 2 ^ 23) = k := by omega
      rw [h1, h2, if_neg (by omega), h3, Nat.add_sub_cancel]
    · have hk : k = 2 ^ 24 := by omega
      have h1 : (2 ^ 23 * e + k) / 2 ^ 23 = e + 2 := by omega
      have h2 : (2 ^ 23 * e + k) % 2 ^ 23 = 0 := by omega
      have h3 : 2 ^ (e + 2 - 1) = 2 ^ e * 2 := Nat.pow_succ 2 e
      rw [h1, h2, if_neg (by omega), h3, hk]
      omega

/-- Every magnitude lies on its binade's grid. -/
theorem magOfBits_onGrid (m : Nat) : ∃ e k, m = 2 ^ 23 * e + k ∧ k < 2 ^ 24 ∧ (2 ^ 23 ≤ k ∨ e = 0) := by
  rcases Nat.lt_or_ge m (2 ^ 23) with h | h
  · exact ⟨0, m, by omega, by omega, .inr rfl⟩
  · exact ⟨m / 2 ^ 23 - 1, m - 2 ^ 23 * (m / 2 ^ 23 - 1), by omega, by omega, .inl (by omega)⟩

/-! ## Rounding to an integer -/

/-- The rounded quotient is within half a unit of the exact one, and even where it is exactly half a unit off. -/
theorem roundHalfEven_near (n : Nat) {d : Nat} (hd : 0 < d) :
    2 * (roundHalfEven n d * d) ≤ 2 * n + d ∧ 2 * n ≤ 2 * (roundHalfEven n d * d) + d ∧
      (2 * (roundHalfEven n d * d) = 2 * n + d ∨ 2 * n = 2 * (roundHalfEven n d * d) + d → roundHalfEven n d % 2 = 0) := by
  have hq := Nat.div_add_mod n d
  have hr := Nat.mod_lt n hd
  have hs : (n / d + 1) * d = d * (n / d) + d := by rw [Nat.add_mul, Nat.one_mul, Nat.mul_comm]
  have hm : n / d * d = d * (n / d) := Nat.mul_comm _ _
  unfold roundHalfEven
  simp only
  split_ifs with h1 h2
  · rw [hm]; omega
  · rw [hs]; omega
  · rcases Nat.mod_two_eq_zero_or_one (n / d) with hp | hp
    · rw [hp, Nat.add_zero, hm]; omega
    · rw [hp, hs]; omega

/-- No integer is nearer than the rounded quotient, and another one as near makes the rounded quotient even. -/
theorem roundHalfEven_nearest (n : Nat) {d : Nat} (hd : 0 < d) (k : Nat) :
    (((roundHalfEven n d * d : Nat) : Int) - n).natAbs ≤ (((k * d : Nat) : Int) - n).natAbs ∧
      ((((roundHalfEven n d * d : Nat) : Int) - n).natAbs = (((k * d : Nat) : Int) - n).natAbs → k ≠ roundHalfEven n d →
        roundHalfEven n d % 2 = 0) := by
  obtain ⟨h1, h2, h3⟩ := roundHalfEven_near n hd
  generalize roundHalfEven n d = q at *
  rcases Nat.lt_trichotomy k q with h | h | h
  · have hk : k * d + d ≤ q * d := by
      have := Nat.mul_le_mul_right d (show k + 1 ≤ q by omega)
      rwa [Nat.add_mul, Nat.one_mul] at this
    omega
  · subst h; omega
  · have hk : q * d + d ≤ k * d := by
      have := Nat.mul_le_mul_right d (show q + 1 ≤ k by omega)
      rwa [Nat.add_mul, Nat.one_mul] at this
    omega

/-! ## Rounding to a magnitude -/

/-- The binade `roundMag` rounds in: between `2^23` and `2^24` units of `2^e`, or below `2^24` units of `2^-149`. -/
theorem binade (n : Nat) {d : Nat} (hd : 0 < d) :
    n < 2 ^ 24 * (d * 2 ^ (Nat.log2 (n / d) - 23)) ∧
      (2 ^ 23 * (d * 2 ^ (Nat.log2 (n / d) - 23)) ≤ n ∨ Nat.log2 (n / d) - 23 = 0) := by
  generalize hl : Nat.log2 (n / d) = l
  by_cases h0 : n / d = 0
  · have hl0 : l = 0 := by rw [← hl, h0]; rfl
    have hn : n < d := by
      rcases Nat.div_eq_zero_iff.mp h0 with h | h
      · omega
      · exact h
    subst hl0
    refine ⟨?_, .inr rfl⟩
    rw [show (0 : Nat) - 23 = 0 from rfl, Nat.pow_zero, Nat.mul_one]
    omega
  · have hlo : 2 ^ l ≤ n / d := hl ▸ Nat.log2_self_le h0
    have hhi : n / d < 2 ^ (l + 1) := hl ▸ Nat.lt_log2_self
    have hnhi : n < 2 ^ (l + 1) * d := (Nat.div_lt_iff_lt_mul hd).mp hhi
    have hnlo : 2 ^ l * d ≤ n := (Nat.le_div_iff_mul_le hd).mp hlo
    rcases Nat.lt_or_ge l 24 with h | h
    · refine ⟨?_, .inr (by omega)⟩
      have hz : l - 23 = 0 := by omega
      rw [hz, Nat.pow_zero, Nat.mul_one]
      refine Nat.lt_of_lt_of_le hnhi (Nat.mul_le_mul_right d (Nat.pow_le_pow_right (by decide) (by omega)))
    · have e1 : 2 ^ 24 * (d * 2 ^ (l - 23)) = 2 ^ (l + 1) * d := by
        rw [show l + 1 = 24 + (l - 23) by omega, Nat.pow_add]
        rw [Nat.mul_comm d, Nat.mul_assoc]
      have e2 : 2 ^ 23 * (d * 2 ^ (l - 23)) = 2 ^ l * d := by
        rw [show 2 ^ l = 2 ^ (23 + (l - 23)) by congr 1; omega, Nat.pow_add]
        rw [Nat.mul_comm d, Nat.mul_assoc]
      rw [e1, e2]
      exact ⟨hnhi, .inl hnlo⟩

/-- The significand `roundMag` rounds to. -/
theorem roundHalfEven_bounds {n d : Nat} (hd : 0 < d) {lo hi : Nat} (h1 : lo * d ≤ n) (h2 : n ≤ hi * d) :
    lo ≤ roundHalfEven n d ∧ roundHalfEven n d ≤ hi := by
  obtain ⟨n1, n2, n3⟩ := roundHalfEven_near n hd
  generalize roundHalfEven n d = q at *
  constructor
  · by_contra h
    have hk : q * d + d ≤ lo * d := by
      have := Nat.mul_le_mul_right d (show q + 1 ≤ lo by omega)
      rwa [Nat.add_mul, Nat.one_mul] at this
    omega
  · by_contra h
    have hk : hi * d + d ≤ q * d := by
      have := Nat.mul_le_mul_right d (show hi + 1 ≤ q by omega)
      rwa [Nat.add_mul, Nat.one_mul] at this
    omega

/-- What `roundMag` answers below the overflow threshold: the binade `e`, the significand `q`, and no overflow. -/
theorem roundMag_eq {n d : Nat} (hd : 0 < d) (ho : n < overflowMag * d) :
    ∃ e q, roundMag n d = 2 ^ 23 * e + q ∧ 2 ^ 23 * e + q < infBits ∧ q = roundHalfEven n (d * 2 ^ e) ∧ q ≤ 2 ^ 24 ∧
      (2 ^ 23 ≤ q ∨ e = 0) ∧ (2 ^ 23 * (d * 2 ^ e) ≤ n ∨ e = 0) := by
  obtain ⟨b1, b2⟩ := binade n hd
  generalize he : Nat.log2 (n / d) - 23 = e at *
  have hD : 0 < d * 2 ^ e := Nat.mul_pos hd (Nat.two_pow_pos e)
  have hq2 : roundHalfEven n (d * 2 ^ e) ≤ 2 ^ 24 := (roundHalfEven_bounds hD (lo := 0) (by omega) (Nat.le_of_lt b1)).2
  have hq1 : 2 ^ 23 ≤ roundHalfEven n (d * 2 ^ e) ∨ e = 0 := by
    rcases b2 with h | h
    · exact .inl (roundHalfEven_bounds hD h (Nat.le_of_lt b1)).1
    · exact .inr h
  have hlt : 2 ^ 23 * e + roundHalfEven n (d * 2 ^ e) < infBits := by
    by_contra hge
    unfold infBits at hge
    have he253 : 253 ≤ e := by omega
    rcases b2 with h | h
    · rcases Nat.lt_or_ge e 254 with h' | h'
      · have h253 : e = 253 := by omega
        subst h253
        have hq : roundHalfEven n (d * 2 ^ 253) = 2 ^ 24 := by omega
        have hn := (roundHalfEven_near n hD).1
        rw [hq] at hn
        have e2 : d * 2 ^ 253 = 2 * (2 ^ 252 * d) := by rw [Nat.mul_comm d, ← Nat.mul_assoc]; rfl
        have e3 : overflowMag * d = (2 ^ 25 - 1) * (2 ^ 252 * d) := Nat.mul_assoc _ _ _
        rw [e2] at hn
        rw [e3] at ho
        generalize 2 ^ 252 * d = X at *
        omega
      · have hp : 2 ^ 254 ≤ 2 ^ e := Nat.pow_le_pow_right (by decide) h'
        have h1 : 2 ^ 254 * d ≤ d * 2 ^ e := by rw [Nat.mul_comm d]; exact Nat.mul_le_mul_right d hp
        have e2 : 2 ^ 254 * d = 4 * (2 ^ 252 * d) := by rw [← Nat.mul_assoc]; rfl
        have e3 : overflowMag * d = (2 ^ 25 - 1) * (2 ^ 252 * d) := Nat.mul_assoc _ _ _
        rw [e2] at h1
        rw [e3] at ho
        generalize 2 ^ 252 * d = X at *
        generalize d * 2 ^ e = Y at *
        omega
    · omega
  refine ⟨e, roundHalfEven n (d * 2 ^ e), ?_, hlt, rfl, hq2, hq1, b2⟩
  unfold roundMag
  simp only [he]
  exact Nat.min_eq_left (Nat.le_of_lt hlt)

/-- The rounded magnitude is finite below the overflow threshold. -/
theorem roundMag_lt {n d : Nat} (hd : 0 < d) (ho : n < overflowMag * d) : roundMag n d < infBits := by
  obtain ⟨e, q, h1, h2, _⟩ := roundMag_eq hd ho
  rw [h1]; exact h2

theorem roundMag_le (n d : Nat) : roundMag n d ≤ infBits := Nat.min_le_right _ _

/-- From the overflow threshold on, the rounded magnitude is infinite. -/
theorem roundMag_overflow {n d : Nat} (hd : 0 < d) (ho : overflowMag * d ≤ n) : roundMag n d = infBits := by
  obtain ⟨b1, b2⟩ := binade n hd
  generalize he : Nat.log2 (n / d) - 23 = e at *
  have hD : 0 < d * 2 ^ e := Nat.mul_pos hd (Nat.two_pow_pos e)
  have e3 : overflowMag * d = (2 ^ 25 - 1) * (2 ^ 252 * d) := Nat.mul_assoc _ _ _
  have hX : 0 < 2 ^ 252 * d := Nat.mul_pos (Nat.two_pow_pos _) hd
  have hge : infBits ≤ 2 ^ 23 * e + roundHalfEven n (d * 2 ^ e) := by
    unfold infBits
    rcases Nat.lt_trichotomy e 253 with h | h | h
    · have hp : d * 2 ^ e ≤ 2 ^ 252 * d := by
        rw [Nat.mul_comm d]
        exact Nat.mul_le_mul_right d (Nat.pow_le_pow_right (by decide) (by omega))
      rw [e3] at ho
      generalize 2 ^ 252 * d = X at *
      omega
    · subst h
      have e2 : d * 2 ^ 253 = 2 * (2 ^ 252 * d) := by rw [Nat.mul_comm d, ← Nat.mul_assoc]; rfl
      obtain ⟨-, h2, h3⟩ := roundHalfEven_near n hD
      rw [e3] at ho
      rw [e2] at h2 h3 ⊢
      generalize 2 ^ 252 * d = X at *
      generalize roundHalfEven n (2 * X) = q at *
      by_contra hlt
      have hq : q * (2 * X) ≤ (2 ^ 24 - 1) * (2 * X) := Nat.mul_le_mul_right _ (by omega)
      have hq1 : q = 2 ^ 24 - 1 ∨ q * (2 * X) + 2 * X ≤ (2 ^ 24 - 1) * (2 * X) := by
        rcases Nat.lt_or_ge q (2 ^ 24 - 1) with h | h
        · right
          have := Nat.mul_le_mul_right (2 * X) (show q + 1 ≤ 2 ^ 24 - 1 by omega)
          rwa [Nat.add_mul, Nat.one_mul] at this
        · left; omega
      generalize q * (2 * X) = Y at *
      omega
    · rcases b2 with h' | h'
      · have := (roundHalfEven_bounds hD h' (Nat.le_of_lt b1)).1
        omega
      · omega
  unfold roundMag
  simp only [he]
  exact Nat.min_eq_right hge

/-- No magnitude is nearer to `n / d` than the rounded one, and another one as near makes the rounded one even. -/
theorem roundMag_nearest {n d : Nat} (hd : 0 < d) (ho : n < overflowMag * d) (m : Nat) :
    (((magOfBits (roundMag n d) * d : Nat) : Int) - n).natAbs ≤ (((magOfBits m * d : Nat) : Int) - n).natAbs ∧
      ((((magOfBits (roundMag n d) * d : Nat) : Int) - n).natAbs = (((magOfBits m * d : Nat) : Int) - n).natAbs →
        magOfBits m ≠ magOfBits (roundMag n d) → roundMag n d % 2 = 0) := by
  obtain ⟨e, q, h1, -, hq, hq2, hq1, hb⟩ := roundMag_eq hd ho
  have hD : 0 < d * 2 ^ e := Nat.mul_pos hd (Nat.two_pow_pos e)
  have hmul : ∀ k, k * 2 ^ e * d = k * (d * 2 ^ e) := fun k => by ring
  rw [h1, magOfBits_grid hq2 hq1, hmul]
  have hpar : (2 ^ 23 * e + q) % 2 = q % 2 := by omega
  rw [hpar]
  obtain ⟨e', k', rfl, hk', hg'⟩ := magOfBits_onGrid m
  rw [magOfBits_grid (Nat.le_of_lt hk') hg']
  rcases Nat.lt_or_ge e' e with hlt | hge
  · have hb' : 2 ^ 23 * (d * 2 ^ e) ≤ n := by
      rcases hb with h | h
      · exact h
      · omega
    have hsm : k' * 2 ^ e' * d < 2 ^ 23 * (d * 2 ^ e) := by
      have hp : 2 * 2 ^ e' ≤ 2 ^ e := by
        have := Nat.pow_le_pow_right (show 0 < 2 by decide) (show e' + 1 ≤ e by omega)
        rw [Nat.pow_succ] at this
        omega
      have h2 : k' * 2 ^ e' < 2 ^ 23 * 2 ^ e := by
        have ha : k' * 2 ^ e' < 2 ^ 24 * 2 ^ e' := Nat.mul_lt_mul_of_pos_right hk' (Nat.two_pow_pos e')
        have hb2 : 2 ^ 23 * (2 * 2 ^ e') ≤ 2 ^ 23 * 2 ^ e := Nat.mul_le_mul_left _ hp
        omega
      have h3 := Nat.mul_lt_mul_of_pos_right h2 hd
      have h4 : 2 ^ 23 * 2 ^ e * d = 2 ^ 23 * (d * 2 ^ e) := by ring
      omega
    have hn := (roundHalfEven_nearest n hD (2 ^ 23)).1
    rw [← hq] at hn
    omega
  · have hs : k' * 2 ^ e' * d = k' * 2 ^ (e' - e) * (d * 2 ^ e) := by
      have hp : 2 ^ e' = 2 ^ (e' - e) * 2 ^ e := by rw [← Nat.pow_add]; congr 1; omega
      rw [← hmul, hp]
      ring
    have hn := roundHalfEven_nearest n hD (k' * 2 ^ (e' - e))
    rw [← hq] at hn
    rw [hs]
    refine ⟨hn.1, fun ht hne => hn.2 ht ?_⟩
    intro heq
    apply hne
    rw [← heq, Nat.mul_assoc, ← Nat.pow_add]
    congr 2
    omega

/-- Rounding is monotone against a representable bound. -/
theorem magOfBits_roundMag_le {n d : Nat} (hd : 0 < d) (ho : n < overflowMag * d) {m : Nat} (h : n ≤ magOfBits m * d) :
    magOfBits (roundMag n d) ≤ magOfBits m := by
  have hn := (roundMag_nearest hd ho m).1
  by_contra hc
  have : magOfBits m * d + d ≤ magOfBits (roundMag n d) * d := by
    have := Nat.mul_le_mul_right d (show magOfBits m + 1 ≤ magOfBits (roundMag n d) by omega)
    rwa [Nat.add_mul, Nat.one_mul] at this
  omega

/-- A representable quotient is its own rounding. -/
theorem magOfBits_roundMag_exact {n d : Nat} (hd : 0 < d) (ho : n < overflowMag * d) {m : Nat} (h : n = magOfBits m * d) :
    magOfBits (roundMag n d) = magOfBits m := by
  have hn := (roundMag_nearest hd ho m).1
  have h0 : (((magOfBits m * d : Nat) : Int) - n).natAbs = 0 := by omega
  have he : magOfBits (roundMag n d) * d = magOfBits m * d := by omega
  exact Nat.eq_of_mul_eq_mul_right hd he

/-! ## Rounding to a value -/

theorem fpVal_pack (neg : Bool) {m : Nat} (h : m ≤ infBits) :
    fpVal (fpPack neg m) = if neg then -(magOfBits m : Int) else (magOfBits m : Int) := by
  unfold fpVal
  rw [fpSign_pack neg h, fpMag_pack neg h]

theorem fpIsFinite_pack (neg : Bool) {m : Nat} (h : m < infBits) : fpIsFinite (fpPack neg m) = true := by
  rw [fpIsFinite_iff, fpBits_pack neg (Nat.le_of_lt h)]
  exact h

theorem fpIsNaN_of_finite {a : F32} (h : fpIsFinite a = true) : fpIsNaN a = false ∧ fpIsInf a = false := by
  unfold fpIsFinite at h
  have : (fpExp a == 255) = false := by rw [beq_eq_false_iff_ne]; exact bne_iff_ne.mp h
  unfold fpIsNaN fpIsInf
  rw [this]
  exact ⟨rfl, rfl⟩

/-- The distance of a signed candidate from a nonnegative number is at least that of its magnitude, and equal to the least
distance only if the candidate has the sign of the number, or one of the two is zero. -/
theorem signed_near {M C n : Int} (hM : 0 ≤ M) (hC : 0 ≤ C) (hn : 0 ≤ n) (h1 : (M - n).natAbs ≤ (C - n).natAbs) {v : Int}
    (hv : v = C ∨ v = -C) :
    (M - n).natAbs ≤ (v - n).natAbs ∧ (-M - -n).natAbs ≤ (v - -n).natAbs ∧
      ((M - n).natAbs = (v - n).natAbs → (M - n).natAbs = (C - n).natAbs ∧ (v = C ∨ n = 0 ∨ C = 0)) ∧
      ((-M - -n).natAbs = (v - -n).natAbs → (M - n).natAbs = (C - n).natAbs ∧ (v = -C ∨ n = 0 ∨ C = 0)) := by
  rcases hv with rfl | rfl <;> omega

/-- The sign bit makes the two values of a magnitude. -/
theorem fpVal_cases (a : F32) : fpVal a = magOfBits (fpBits a) ∨ fpVal a = -(magOfBits (fpBits a) : Int) := by
  rw [← fpMag_eq]
  unfold fpVal
  split
  · exact .inr rfl
  · exact .inl rfl

/-- A value of the right sign with the rounded magnitude is the nearest value, ties to even. -/
theorem roundsTo_pack {num : Int} {n d : Nat} {neg : Bool} (hd : 0 < d) (hn : num = if neg then -(n : Int) else (n : Int))
    (ho : n < overflowMag * d) : RoundsTo num d (fpPack neg (roundMag n d)) := by
  have hlt := roundMag_lt hd ho
  have hle := Nat.le_of_lt hlt
  refine ⟨fpIsFinite_pack neg hlt, fun c _ => ?_⟩
  obtain ⟨h1, h2⟩ := roundMag_nearest hd ho (fpBits c)
  rw [fpVal_pack neg hle, getLsbD_zero_pack]
  have hz : n = 0 → magOfBits (roundMag n d) = 0 := fun h0 =>
    magOfBits_roundMag_exact hd ho (m := 0) (by rw [h0]; exact (Nat.zero_mul d).symm)
  have hpar : roundMag n d % 2 = 0 → decide (roundMag n d % 2 = 1) = false := fun h => decide_eq_false (by omega)
  have hv := fpVal_cases c
  have hcancel : ∀ {x y : Nat}, ((x * d : Nat) : Int) = ((y * d : Nat) : Int) → x = y := fun h =>
    Nat.eq_of_mul_eq_mul_right hd (Int.ofNat.inj h)
  generalize roundMag n d = r at *
  generalize magOfBits r = M at *
  generalize magOfBits (fpBits c) = C at *
  generalize fpVal c = v at *
  have hvd : v * d = ((C * d : Nat) : Int) ∨ v * d = -((C * d : Nat) : Int) := by
    rcases hv with h | h
    · left; rw [h, Nat.cast_mul]
    · right; rw [h, Nat.cast_mul, Int.neg_mul]
  obtain ⟨s1, s2, s3, s4⟩ := signed_near (Int.natCast_nonneg (M * d)) (Int.natCast_nonneg (C * d)) (Int.natCast_nonneg n) h1 hvd
  have hC0 : ((C * d : Nat) : Int) = 0 → C = 0 := fun h => hcancel (by rw [h, Nat.zero_mul]; rfl)
  have hzero : M = C → n = 0 ∨ C = 0 → v = 0 ∧ M = 0 := by
    intro hMC h
    have hM0 : M = 0 := by
      rcases h with h | h
      · exact hz h
      · omega
    exact ⟨by omega, hM0⟩
  cases neg
  · simp only [Bool.false_eq_true, if_false] at hn ⊢
    subst hn
    rw [← Nat.cast_mul]
    refine ⟨s1, fun ht hne => hpar (h2 (s3 ht).1 fun hCM => hne ?_)⟩
    rcases (s3 ht).2 with h | h
    · rcases hv with hv | hv
      · rw [hv, hCM]
      · rw [hv, Int.neg_mul, ← Nat.cast_mul] at h
        have : C = 0 := hC0 (by omega)
        omega
    · have := hzero hCM.symm (h.imp (by omega) hC0)
      omega
  · simp only [if_true] at hn ⊢
    subst hn
    rw [Int.neg_mul, ← Nat.cast_mul]
    refine ⟨s2, fun ht hne => hpar (h2 (s4 ht).1 fun hCM => hne ?_)⟩
    rcases (s4 ht).2 with h | h
    · rcases hv with hv | hv
      · rw [hv, ← Nat.cast_mul] at h
        have : C = 0 := hC0 (by omega)
        omega
      · rw [hv, hCM]
    · have := hzero hCM.symm (h.imp (by omega) hC0)
      omega

/-! ## The operations on finite operands -/

theorem fpAdd_finite {a b : F32} (ha : fpIsFinite a = true) (hb : fpIsFinite b = true) :
    fpAdd a b =
      if fpVal a + fpVal b = 0 then fpPack (fpSign a && fpSign b) 0
      else fpPack (decide (fpVal a + fpVal b < 0)) (roundMag (fpVal a + fpVal b).natAbs 1) := by
  unfold fpAdd
  rw [(fpIsNaN_of_finite ha).1, (fpIsNaN_of_finite hb).1, (fpIsNaN_of_finite ha).2, (fpIsNaN_of_finite hb).2]
  rfl

theorem fpMul_finite {a b : F32} (ha : fpIsFinite a = true) (hb : fpIsFinite b = true) :
    fpMul a b = fpPack (fpSign a != fpSign b) (roundMag (fpMag a * fpMag b) (2 ^ 149)) := by
  unfold fpMul
  rw [(fpIsNaN_of_finite ha).1, (fpIsNaN_of_finite hb).1, (fpIsNaN_of_finite ha).2, (fpIsNaN_of_finite hb).2]
  rfl

theorem fpDiv_finite {a b : F32} (ha : fpIsFinite a = true) (hb : fpIsFinite b = true) (h0 : fpMag b ≠ 0) :
    fpDiv a b = fpPack (fpSign a != fpSign b) (roundMag (2 ^ 149 * fpMag a) (fpMag b)) := by
  unfold fpDiv
  rw [(fpIsNaN_of_finite ha).1, (fpIsNaN_of_finite hb).1, (fpIsNaN_of_finite ha).2, (fpIsNaN_of_finite hb).2]
  simp only [Bool.or_self, Bool.false_eq_true, if_false, if_neg h0]

end Sys2Proof.Machine
end

