-- ==== Sys2Proof/Laws/State.lean ====
section
/-! SUPPORT. What each named update of the state leaves in each field: one lemma per field per update. -/

namespace Sys2Proof.Machine

/-! ### emit -/

@[simp] theorem State.emit_pstate (s : State) (es : List Output) : (s.emit es).pstate = s.pstate := rfl
@[simp] theorem State.emit_pn (s : State) (es : List Output) : (s.emit es).pn = s.pn := rfl
@[simp] theorem State.emit_pidx (s : State) (es : List Output) : (s.emit es).pidx = s.pidx := rfl
@[simp] theorem State.emit_pvf (s : State) (es : List Output) : (s.emit es).pvf = s.pvf := rfl
@[simp] theorem State.emit_pwlen (s : State) (es : List Output) : (s.emit es).pwlen = s.pwlen := rfl
@[simp] theorem State.emit_inBuf (s : State) (es : List Output) : (s.emit es).inBuf = s.inBuf := rfl
@[simp] theorem State.emit_bassBuf (s : State) (es : List Output) : (s.emit es).bassBuf = s.bassBuf := rfl
@[simp] theorem State.emit_midBuf (s : State) (es : List Output) : (s.emit es).midBuf = s.midBuf := rfl
@[simp] theorem State.emit_lpY (s : State) (es : List Output) : (s.emit es).lpY = s.lpY := rfl
@[simp] theorem State.emit_vol (s : State) (es : List Output) : (s.emit es).vol = s.vol := rfl
@[simp] theorem State.emit_party (s : State) (es : List Output) : (s.emit es).party = s.party := rfl
@[simp] theorem State.emit_isPlaying (s : State) (es : List Output) : (s.emit es).isPlaying = s.isPlaying := rfl
@[simp] theorem State.emit_notifyArmed (s : State) (es : List Output) : (s.emit es).notifyArmed = s.notifyArmed := rfl
@[simp] theorem State.emit_powerOn (s : State) (es : List Output) : (s.emit es).powerOn = s.powerOn := rfl
@[simp] theorem State.emit_timeMs (s : State) (es : List Output) : (s.emit es).timeMs = s.timeMs := rfl
@[simp] theorem State.emit_encRun (s : State) (es : List Output) : (s.emit es).encRun = s.encRun := rfl
@[simp] theorem State.emit_encPrevA (s : State) (es : List Output) : (s.emit es).encPrevA = s.encPrevA := rfl
@[simp] theorem State.emit_encLastEdge (s : State) (es : List Output) : (s.emit es).encLastEdge = s.encLastEdge := rfl
@[simp] theorem State.emit_encVol (s : State) (es : List Output) : (s.emit es).encVol = s.encVol := rfl
@[simp] theorem State.emit_bstate (s : State) (es : List Output) : (s.emit es).bstate = s.bstate := rfl
@[simp] theorem State.emit_bClicks (s : State) (es : List Output) : (s.emit es).bClicks = s.bClicks := rfl
@[simp] theorem State.emit_bLastClick (s : State) (es : List Output) : (s.emit es).bLastClick = s.bLastClick := rfl
@[simp] theorem State.emit_bPressStart (s : State) (es : List Output) : (s.emit es).bPressStart = s.bPressStart := rfl
@[simp] theorem State.emit_dataPort (s : State) (es : List Output) : (s.emit es).dataPort = s.dataPort := rfl
@[simp] theorem State.emit_heldFrames (s : State) (es : List Output) : (s.emit es).heldFrames = s.heldFrames := rfl
@[simp] theorem State.emit_heldMutes (s : State) (es : List Output) : (s.emit es).heldMutes = s.heldMutes := rfl
@[simp] theorem State.emit_agenda (s : State) (es : List Output) : (s.emit es).agenda = s.agenda := rfl
@[simp] theorem State.emit_history (s : State) (es : List Output) : (s.emit es).history = s.history ++ es := rfl
@[simp] theorem State.emit_freeBuf (s : State) (es : List Output) : (s.emit es).freeBuf = s.freeBuf := rfl
@[simp] theorem State.emit_freePick (s : State) (es : List Output) : (s.emit es).freePick = s.freePick := rfl

/-! ### writeVol -/

@[simp] theorem State.writeVol_pstate (s : State) (v : BitVec 7) : (s.writeVol v).pstate = s.pstate := rfl
@[simp] theorem State.writeVol_pn (s : State) (v : BitVec 7) : (s.writeVol v).pn = s.pn := rfl
@[simp] theorem State.writeVol_pidx (s : State) (v : BitVec 7) : (s.writeVol v).pidx = s.pidx := rfl
@[simp] theorem State.writeVol_pvf (s : State) (v : BitVec 7) : (s.writeVol v).pvf = s.pvf := rfl
@[simp] theorem State.writeVol_pwlen (s : State) (v : BitVec 7) : (s.writeVol v).pwlen = s.pwlen := rfl
@[simp] theorem State.writeVol_inBuf (s : State) (v : BitVec 7) : (s.writeVol v).inBuf = s.inBuf := rfl
@[simp] theorem State.writeVol_bassBuf (s : State) (v : BitVec 7) : (s.writeVol v).bassBuf = s.bassBuf := rfl
@[simp] theorem State.writeVol_midBuf (s : State) (v : BitVec 7) : (s.writeVol v).midBuf = s.midBuf := rfl
@[simp] theorem State.writeVol_lpY (s : State) (v : BitVec 7) : (s.writeVol v).lpY = s.lpY := rfl
@[simp] theorem State.writeVol_vol (s : State) (v : BitVec 7) : (s.writeVol v).vol = v := rfl
@[simp] theorem State.writeVol_party (s : State) (v : BitVec 7) : (s.writeVol v).party = s.party := rfl
@[simp] theorem State.writeVol_isPlaying (s : State) (v : BitVec 7) : (s.writeVol v).isPlaying = s.isPlaying := rfl
@[simp] theorem State.writeVol_notifyArmed (s : State) (v : BitVec 7) : (s.writeVol v).notifyArmed = s.notifyArmed := rfl
@[simp] theorem State.writeVol_powerOn (s : State) (v : BitVec 7) : (s.writeVol v).powerOn = s.powerOn := rfl
@[simp] theorem State.writeVol_timeMs (s : State) (v : BitVec 7) : (s.writeVol v).timeMs = s.timeMs := rfl
@[simp] theorem State.writeVol_encRun (s : State) (v : BitVec 7) : (s.writeVol v).encRun = s.encRun := rfl
@[simp] theorem State.writeVol_encPrevA (s : State) (v : BitVec 7) : (s.writeVol v).encPrevA = s.encPrevA := rfl
@[simp] theorem State.writeVol_encLastEdge (s : State) (v : BitVec 7) : (s.writeVol v).encLastEdge = s.encLastEdge := rfl
@[simp] theorem State.writeVol_encVol (s : State) (v : BitVec 7) : (s.writeVol v).encVol = s.encVol := rfl
@[simp] theorem State.writeVol_bstate (s : State) (v : BitVec 7) : (s.writeVol v).bstate = s.bstate := rfl
@[simp] theorem State.writeVol_bClicks (s : State) (v : BitVec 7) : (s.writeVol v).bClicks = s.bClicks := rfl
@[simp] theorem State.writeVol_bLastClick (s : State) (v : BitVec 7) : (s.writeVol v).bLastClick = s.bLastClick := rfl
@[simp] theorem State.writeVol_bPressStart (s : State) (v : BitVec 7) : (s.writeVol v).bPressStart = s.bPressStart := rfl
@[simp] theorem State.writeVol_dataPort (s : State) (v : BitVec 7) : (s.writeVol v).dataPort = s.dataPort := rfl
@[simp] theorem State.writeVol_heldFrames (s : State) (v : BitVec 7) : (s.writeVol v).heldFrames = s.heldFrames := rfl
@[simp] theorem State.writeVol_heldMutes (s : State) (v : BitVec 7) : (s.writeVol v).heldMutes = s.heldMutes := rfl
@[simp] theorem State.writeVol_agenda (s : State) (v : BitVec 7) : (s.writeVol v).agenda = s.agenda := rfl
@[simp] theorem State.writeVol_history (s : State) (v : BitVec 7) : (s.writeVol v).history = s.history := rfl
@[simp] theorem State.writeVol_freeBuf (s : State) (v : BitVec 7) : (s.writeVol v).freeBuf = s.freeBuf := rfl
@[simp] theorem State.writeVol_freePick (s : State) (v : BitVec 7) : (s.writeVol v).freePick = s.freePick := rfl

/-! ### writeLpY -/

@[simp] theorem State.writeLpY_pstate (s : State) (v : F32) : (s.writeLpY v).pstate = s.pstate := rfl
@[simp] theorem State.writeLpY_pn (s : State) (v : F32) : (s.writeLpY v).pn = s.pn := rfl
@[simp] theorem State.writeLpY_pidx (s : State) (v : F32) : (s.writeLpY v).pidx = s.pidx := rfl
@[simp] theorem State.writeLpY_pvf (s : State) (v : F32) : (s.writeLpY v).pvf = s.pvf := rfl
@[simp] theorem State.writeLpY_pwlen (s : State) (v : F32) : (s.writeLpY v).pwlen = s.pwlen := rfl
@[simp] theorem State.writeLpY_inBuf (s : State) (v : F32) : (s.writeLpY v).inBuf = s.inBuf := rfl
@[simp] theorem State.writeLpY_bassBuf (s : State) (v : F32) : (s.writeLpY v).bassBuf = s.bassBuf := rfl
@[simp] theorem State.writeLpY_midBuf (s : State) (v : F32) : (s.writeLpY v).midBuf = s.midBuf := rfl
@[simp] theorem State.writeLpY_lpY (s : State) (v : F32) : (s.writeLpY v).lpY = v := rfl
@[simp] theorem State.writeLpY_vol (s : State) (v : F32) : (s.writeLpY v).vol = s.vol := rfl
@[simp] theorem State.writeLpY_party (s : State) (v : F32) : (s.writeLpY v).party = s.party := rfl
@[simp] theorem State.writeLpY_isPlaying (s : State) (v : F32) : (s.writeLpY v).isPlaying = s.isPlaying := rfl
@[simp] theorem State.writeLpY_notifyArmed (s : State) (v : F32) : (s.writeLpY v).notifyArmed = s.notifyArmed := rfl
@[simp] theorem State.writeLpY_powerOn (s : State) (v : F32) : (s.writeLpY v).powerOn = s.powerOn := rfl
@[simp] theorem State.writeLpY_timeMs (s : State) (v : F32) : (s.writeLpY v).timeMs = s.timeMs := rfl
@[simp] theorem State.writeLpY_encRun (s : State) (v : F32) : (s.writeLpY v).encRun = s.encRun := rfl
@[simp] theorem State.writeLpY_encPrevA (s : State) (v : F32) : (s.writeLpY v).encPrevA = s.encPrevA := rfl
@[simp] theorem State.writeLpY_encLastEdge (s : State) (v : F32) : (s.writeLpY v).encLastEdge = s.encLastEdge := rfl
@[simp] theorem State.writeLpY_encVol (s : State) (v : F32) : (s.writeLpY v).encVol = s.encVol := rfl
@[simp] theorem State.writeLpY_bstate (s : State) (v : F32) : (s.writeLpY v).bstate = s.bstate := rfl
@[simp] theorem State.writeLpY_bClicks (s : State) (v : F32) : (s.writeLpY v).bClicks = s.bClicks := rfl
@[simp] theorem State.writeLpY_bLastClick (s : State) (v : F32) : (s.writeLpY v).bLastClick = s.bLastClick := rfl
@[simp] theorem State.writeLpY_bPressStart (s : State) (v : F32) : (s.writeLpY v).bPressStart = s.bPressStart := rfl
@[simp] theorem State.writeLpY_dataPort (s : State) (v : F32) : (s.writeLpY v).dataPort = s.dataPort := rfl
@[simp] theorem State.writeLpY_heldFrames (s : State) (v : F32) : (s.writeLpY v).heldFrames = s.heldFrames := rfl
@[simp] theorem State.writeLpY_heldMutes (s : State) (v : F32) : (s.writeLpY v).heldMutes = s.heldMutes := rfl
@[simp] theorem State.writeLpY_agenda (s : State) (v : F32) : (s.writeLpY v).agenda = s.agenda := rfl
@[simp] theorem State.writeLpY_history (s : State) (v : F32) : (s.writeLpY v).history = s.history := rfl
@[simp] theorem State.writeLpY_freeBuf (s : State) (v : F32) : (s.writeLpY v).freeBuf = s.freeBuf := rfl
@[simp] theorem State.writeLpY_freePick (s : State) (v : F32) : (s.writeLpY v).freePick = s.freePick := rfl

/-! ### holdFrame -/

@[simp] theorem State.holdFrame_pstate (s : State) (len : BitVec 24) : (s.holdFrame len).pstate = s.pstate := rfl
@[simp] theorem State.holdFrame_pn (s : State) (len : BitVec 24) : (s.holdFrame len).pn = s.pn := rfl
@[simp] theorem State.holdFrame_pidx (s : State) (len : BitVec 24) : (s.holdFrame len).pidx = s.pidx := rfl
@[simp] theorem State.holdFrame_pvf (s : State) (len : BitVec 24) : (s.holdFrame len).pvf = s.pvf := rfl
@[simp] theorem State.holdFrame_pwlen (s : State) (len : BitVec 24) : (s.holdFrame len).pwlen = s.pwlen := rfl
@[simp] theorem State.holdFrame_inBuf (s : State) (len : BitVec 24) : (s.holdFrame len).inBuf = s.inBuf := rfl
@[simp] theorem State.holdFrame_bassBuf (s : State) (len : BitVec 24) : (s.holdFrame len).bassBuf = s.bassBuf := rfl
@[simp] theorem State.holdFrame_midBuf (s : State) (len : BitVec 24) : (s.holdFrame len).midBuf = s.midBuf := rfl
@[simp] theorem State.holdFrame_lpY (s : State) (len : BitVec 24) : (s.holdFrame len).lpY = s.lpY := rfl
@[simp] theorem State.holdFrame_vol (s : State) (len : BitVec 24) : (s.holdFrame len).vol = s.vol := rfl
@[simp] theorem State.holdFrame_party (s : State) (len : BitVec 24) : (s.holdFrame len).party = s.party := rfl
@[simp] theorem State.holdFrame_isPlaying (s : State) (len : BitVec 24) : (s.holdFrame len).isPlaying = s.isPlaying := rfl
@[simp] theorem State.holdFrame_notifyArmed (s : State) (len : BitVec 24) : (s.holdFrame len).notifyArmed = s.notifyArmed := rfl
@[simp] theorem State.holdFrame_powerOn (s : State) (len : BitVec 24) : (s.holdFrame len).powerOn = s.powerOn := rfl
@[simp] theorem State.holdFrame_timeMs (s : State) (len : BitVec 24) : (s.holdFrame len).timeMs = s.timeMs := rfl
@[simp] theorem State.holdFrame_encRun (s : State) (len : BitVec 24) : (s.holdFrame len).encRun = s.encRun := rfl
@[simp] theorem State.holdFrame_encPrevA (s : State) (len : BitVec 24) : (s.holdFrame len).encPrevA = s.encPrevA := rfl
@[simp] theorem State.holdFrame_encLastEdge (s : State) (len : BitVec 24) : (s.holdFrame len).encLastEdge = s.encLastEdge := rfl
@[simp] theorem State.holdFrame_encVol (s : State) (len : BitVec 24) : (s.holdFrame len).encVol = s.encVol := rfl
@[simp] theorem State.holdFrame_bstate (s : State) (len : BitVec 24) : (s.holdFrame len).bstate = s.bstate := rfl
@[simp] theorem State.holdFrame_bClicks (s : State) (len : BitVec 24) : (s.holdFrame len).bClicks = s.bClicks := rfl
@[simp] theorem State.holdFrame_bLastClick (s : State) (len : BitVec 24) : (s.holdFrame len).bLastClick = s.bLastClick := rfl
@[simp] theorem State.holdFrame_bPressStart (s : State) (len : BitVec 24) : (s.holdFrame len).bPressStart = s.bPressStart := rfl
@[simp] theorem State.holdFrame_dataPort (s : State) (len : BitVec 24) : (s.holdFrame len).dataPort = s.dataPort := rfl
@[simp] theorem State.holdFrame_heldFrames (s : State) (len : BitVec 24) : (s.holdFrame len).heldFrames = s.heldFrames ++ [⟨len, s.dataPort⟩] := rfl
@[simp] theorem State.holdFrame_heldMutes (s : State) (len : BitVec 24) : (s.holdFrame len).heldMutes = s.heldMutes := rfl
@[simp] theorem State.holdFrame_agenda (s : State) (len : BitVec 24) : (s.holdFrame len).agenda = s.agenda := rfl
@[simp] theorem State.holdFrame_history (s : State) (len : BitVec 24) : (s.holdFrame len).history = s.history := rfl
@[simp] theorem State.holdFrame_freeBuf (s : State) (len : BitVec 24) : (s.holdFrame len).freeBuf = s.freeBuf := rfl
@[simp] theorem State.holdFrame_freePick (s : State) (len : BitVec 24) : (s.holdFrame len).freePick = s.freePick := rfl

/-! ### holdMute -/

@[simp] theorem State.holdMute_pstate (s : State) : (s.holdMute).pstate = s.pstate := rfl
@[simp] theorem State.holdMute_pn (s : State) : (s.holdMute).pn = s.pn := rfl
@[simp] theorem State.holdMute_pidx (s : State) : (s.holdMute).pidx = s.pidx := rfl
@[simp] theorem State.holdMute_pvf (s : State) : (s.holdMute).pvf = s.pvf := rfl
@[simp] theorem State.holdMute_pwlen (s : State) : (s.holdMute).pwlen = s.pwlen := rfl
@[simp] theorem State.holdMute_inBuf (s : State) : (s.holdMute).inBuf = s.inBuf := rfl
@[simp] theorem State.holdMute_bassBuf (s : State) : (s.holdMute).bassBuf = s.bassBuf := rfl
@[simp] theorem State.holdMute_midBuf (s : State) : (s.holdMute).midBuf = s.midBuf := rfl
@[simp] theorem State.holdMute_lpY (s : State) : (s.holdMute).lpY = s.lpY := rfl
@[simp] theorem State.holdMute_vol (s : State) : (s.holdMute).vol = s.vol := rfl
@[simp] theorem State.holdMute_party (s : State) : (s.holdMute).party = s.party := rfl
@[simp] theorem State.holdMute_isPlaying (s : State) : (s.holdMute).isPlaying = s.isPlaying := rfl
@[simp] theorem State.holdMute_notifyArmed (s : State) : (s.holdMute).notifyArmed = s.notifyArmed := rfl
@[simp] theorem State.holdMute_powerOn (s : State) : (s.holdMute).powerOn = s.powerOn := rfl
@[simp] theorem State.holdMute_timeMs (s : State) : (s.holdMute).timeMs = s.timeMs := rfl
@[simp] theorem State.holdMute_encRun (s : State) : (s.holdMute).encRun = s.encRun := rfl
@[simp] theorem State.holdMute_encPrevA (s : State) : (s.holdMute).encPrevA = s.encPrevA := rfl
@[simp] theorem State.holdMute_encLastEdge (s : State) : (s.holdMute).encLastEdge = s.encLastEdge := rfl
@[simp] theorem State.holdMute_encVol (s : State) : (s.holdMute).encVol = s.encVol := rfl
@[simp] theorem State.holdMute_bstate (s : State) : (s.holdMute).bstate = s.bstate := rfl
@[simp] theorem State.holdMute_bClicks (s : State) : (s.holdMute).bClicks = s.bClicks := rfl
@[simp] theorem State.holdMute_bLastClick (s : State) : (s.holdMute).bLastClick = s.bLastClick := rfl
@[simp] theorem State.holdMute_bPressStart (s : State) : (s.holdMute).bPressStart = s.bPressStart := rfl
@[simp] theorem State.holdMute_dataPort (s : State) : (s.holdMute).dataPort = s.dataPort := rfl
@[simp] theorem State.holdMute_heldFrames (s : State) : (s.holdMute).heldFrames = s.heldFrames := rfl
@[simp] theorem State.holdMute_heldMutes (s : State) : (s.holdMute).heldMutes = s.heldMutes + 1 := rfl
@[simp] theorem State.holdMute_agenda (s : State) : (s.holdMute).agenda = s.agenda := rfl
@[simp] theorem State.holdMute_history (s : State) : (s.holdMute).history = s.history := rfl
@[simp] theorem State.holdMute_freeBuf (s : State) : (s.holdMute).freeBuf = s.freeBuf := rfl
@[simp] theorem State.holdMute_freePick (s : State) : (s.holdMute).freePick = s.freePick := rfl

/-! ### clockFilter -/

@[simp] theorem State.clockFilter_pstate (s : State) (x : F32) : (s.clockFilter x).pstate = s.pstate := rfl
@[simp] theorem State.clockFilter_pn (s : State) (x : F32) : (s.clockFilter x).pn = s.pn := rfl
@[simp] theorem State.clockFilter_pidx (s : State) (x : F32) : (s.clockFilter x).pidx = s.pidx := rfl
@[simp] theorem State.clockFilter_pvf (s : State) (x : F32) : (s.clockFilter x).pvf = s.pvf := rfl
@[simp] theorem State.clockFilter_pwlen (s : State) (x : F32) : (s.clockFilter x).pwlen = s.pwlen := rfl
@[simp] theorem State.clockFilter_inBuf (s : State) (x : F32) : (s.clockFilter x).inBuf = s.inBuf := rfl
@[simp] theorem State.clockFilter_bassBuf (s : State) (x : F32) : (s.clockFilter x).bassBuf = s.bassBuf := rfl
@[simp] theorem State.clockFilter_midBuf (s : State) (x : F32) : (s.clockFilter x).midBuf = s.midBuf := rfl
@[simp] theorem State.clockFilter_lpY (s : State) (x : F32) : (s.clockFilter x).lpY = filterNext x s.lpY := rfl
@[simp] theorem State.clockFilter_vol (s : State) (x : F32) : (s.clockFilter x).vol = s.vol := rfl
@[simp] theorem State.clockFilter_party (s : State) (x : F32) : (s.clockFilter x).party = s.party := rfl
@[simp] theorem State.clockFilter_isPlaying (s : State) (x : F32) : (s.clockFilter x).isPlaying = s.isPlaying := rfl
@[simp] theorem State.clockFilter_notifyArmed (s : State) (x : F32) : (s.clockFilter x).notifyArmed = s.notifyArmed := rfl
@[simp] theorem State.clockFilter_powerOn (s : State) (x : F32) : (s.clockFilter x).powerOn = s.powerOn := rfl
@[simp] theorem State.clockFilter_timeMs (s : State) (x : F32) : (s.clockFilter x).timeMs = s.timeMs := rfl
@[simp] theorem State.clockFilter_encRun (s : State) (x : F32) : (s.clockFilter x).encRun = s.encRun := rfl
@[simp] theorem State.clockFilter_encPrevA (s : State) (x : F32) : (s.clockFilter x).encPrevA = s.encPrevA := rfl
@[simp] theorem State.clockFilter_encLastEdge (s : State) (x : F32) : (s.clockFilter x).encLastEdge = s.encLastEdge := rfl
@[simp] theorem State.clockFilter_encVol (s : State) (x : F32) : (s.clockFilter x).encVol = s.encVol := rfl
@[simp] theorem State.clockFilter_bstate (s : State) (x : F32) : (s.clockFilter x).bstate = s.bstate := rfl
@[simp] theorem State.clockFilter_bClicks (s : State) (x : F32) : (s.clockFilter x).bClicks = s.bClicks := rfl
@[simp] theorem State.clockFilter_bLastClick (s : State) (x : F32) : (s.clockFilter x).bLastClick = s.bLastClick := rfl
@[simp] theorem State.clockFilter_bPressStart (s : State) (x : F32) : (s.clockFilter x).bPressStart = s.bPressStart := rfl
@[simp] theorem State.clockFilter_dataPort (s : State) (x : F32) : (s.clockFilter x).dataPort = s.dataPort := rfl
@[simp] theorem State.clockFilter_heldFrames (s : State) (x : F32) : (s.clockFilter x).heldFrames = s.heldFrames := rfl
@[simp] theorem State.clockFilter_heldMutes (s : State) (x : F32) : (s.clockFilter x).heldMutes = s.heldMutes := rfl
@[simp] theorem State.clockFilter_agenda (s : State) (x : F32) : (s.clockFilter x).agenda = s.agenda := rfl
@[simp] theorem State.clockFilter_history (s : State) (x : F32) : (s.clockFilter x).history = s.history := rfl
@[simp] theorem State.clockFilter_freeBuf (s : State) (x : F32) : (s.clockFilter x).freeBuf = s.freeBuf := rfl
@[simp] theorem State.clockFilter_freePick (s : State) (x : F32) : (s.clockFilter x).freePick = s.freePick := rfl

/-! ### clearFilter -/

@[simp] theorem State.clearFilter_pstate (s : State) : (s.clearFilter).pstate = s.pstate := rfl
@[simp] theorem State.clearFilter_pn (s : State) : (s.clearFilter).pn = s.pn := rfl
@[simp] theorem State.clearFilter_pidx (s : State) : (s.clearFilter).pidx = s.pidx := rfl
@[simp] theorem State.clearFilter_pvf (s : State) : (s.clearFilter).pvf = s.pvf := rfl
@[simp] theorem State.clearFilter_pwlen (s : State) : (s.clearFilter).pwlen = s.pwlen := rfl
@[simp] theorem State.clearFilter_inBuf (s : State) : (s.clearFilter).inBuf = s.inBuf := rfl
@[simp] theorem State.clearFilter_bassBuf (s : State) : (s.clearFilter).bassBuf = s.bassBuf := rfl
@[simp] theorem State.clearFilter_midBuf (s : State) : (s.clearFilter).midBuf = s.midBuf := rfl
@[simp] theorem State.clearFilter_lpY (s : State) : (s.clearFilter).lpY = 0#32 := rfl
@[simp] theorem State.clearFilter_vol (s : State) : (s.clearFilter).vol = s.vol := rfl
@[simp] theorem State.clearFilter_party (s : State) : (s.clearFilter).party = s.party := rfl
@[simp] theorem State.clearFilter_isPlaying (s : State) : (s.clearFilter).isPlaying = s.isPlaying := rfl
@[simp] theorem State.clearFilter_notifyArmed (s : State) : (s.clearFilter).notifyArmed = s.notifyArmed := rfl
@[simp] theorem State.clearFilter_powerOn (s : State) : (s.clearFilter).powerOn = s.powerOn := rfl
@[simp] theorem State.clearFilter_timeMs (s : State) : (s.clearFilter).timeMs = s.timeMs := rfl
@[simp] theorem State.clearFilter_encRun (s : State) : (s.clearFilter).encRun = s.encRun := rfl
@[simp] theorem State.clearFilter_encPrevA (s : State) : (s.clearFilter).encPrevA = s.encPrevA := rfl
@[simp] theorem State.clearFilter_encLastEdge (s : State) : (s.clearFilter).encLastEdge = s.encLastEdge := rfl
@[simp] theorem State.clearFilter_encVol (s : State) : (s.clearFilter).encVol = s.encVol := rfl
@[simp] theorem State.clearFilter_bstate (s : State) : (s.clearFilter).bstate = s.bstate := rfl
@[simp] theorem State.clearFilter_bClicks (s : State) : (s.clearFilter).bClicks = s.bClicks := rfl
@[simp] theorem State.clearFilter_bLastClick (s : State) : (s.clearFilter).bLastClick = s.bLastClick := rfl
@[simp] theorem State.clearFilter_bPressStart (s : State) : (s.clearFilter).bPressStart = s.bPressStart := rfl
@[simp] theorem State.clearFilter_dataPort (s : State) : (s.clearFilter).dataPort = s.dataPort := rfl
@[simp] theorem State.clearFilter_heldFrames (s : State) : (s.clearFilter).heldFrames = s.heldFrames := rfl
@[simp] theorem State.clearFilter_heldMutes (s : State) : (s.clearFilter).heldMutes = s.heldMutes := rfl
@[simp] theorem State.clearFilter_agenda (s : State) : (s.clearFilter).agenda = s.agenda := rfl
@[simp] theorem State.clearFilter_history (s : State) : (s.clearFilter).history = s.history := rfl
@[simp] theorem State.clearFilter_freeBuf (s : State) : (s.clearFilter).freeBuf = s.freeBuf := rfl
@[simp] theorem State.clearFilter_freePick (s : State) : (s.clearFilter).freePick = s.freePick := rfl

/-! ### setBuf -/

@[simp] theorem State.setBuf_pstate (s : State) (b : Buf) (m : Memory) : (s.setBuf b m).pstate = s.pstate := by cases b <;> rfl
@[simp] theorem State.setBuf_pn (s : State) (b : Buf) (m : Memory) : (s.setBuf b m).pn = s.pn := by cases b <;> rfl
@[simp] theorem State.setBuf_pidx (s : State) (b : Buf) (m : Memory) : (s.setBuf b m).pidx = s.pidx := by cases b <;> rfl
@[simp] theorem State.setBuf_pvf (s : State) (b : Buf) (m : Memory) : (s.setBuf b m).pvf = s.pvf := by cases b <;> rfl
@[simp] theorem State.setBuf_pwlen (s : State) (b : Buf) (m : Memory) : (s.setBuf b m).pwlen = s.pwlen := by cases b <;> rfl
@[simp] theorem State.setBuf_lpY (s : State) (b : Buf) (m : Memory) : (s.setBuf b m).lpY = s.lpY := by cases b <;> rfl
@[simp] theorem State.setBuf_vol (s : State) (b : Buf) (m : Memory) : (s.setBuf b m).vol = s.vol := by cases b <;> rfl
@[simp] theorem State.setBuf_party (s : State) (b : Buf) (m : Memory) : (s.setBuf b m).party = s.party := by cases b <;> rfl
@[simp] theorem State.setBuf_isPlaying (s : State) (b : Buf) (m : Memory) : (s.setBuf b m).isPlaying = s.isPlaying := by cases b <;> rfl
@[simp] theorem State.setBuf_notifyArmed (s : State) (b : Buf) (m : Memory) : (s.setBuf b m).notifyArmed = s.notifyArmed := by cases b <;> rfl
@[simp] theorem State.setBuf_powerOn (s : State) (b : Buf) (m : Memory) : (s.setBuf b m).powerOn = s.powerOn := by cases b <;> rfl
@[simp] theorem State.setBuf_timeMs (s : State) (b : Buf) (m : Memory) : (s.setBuf b m).timeMs = s.timeMs := by cases b <;> rfl
@[simp] theorem State.setBuf_encRun (s : State) (b : Buf) (m : Memory) : (s.setBuf b m).encRun = s.encRun := by cases b <;> rfl
@[simp] theorem State.setBuf_encPrevA (s : State) (b : Buf) (m : Memory) : (s.setBuf b m).encPrevA = s.encPrevA := by cases b <;> rfl
@[simp] theorem State.setBuf_encLastEdge (s : State) (b : Buf) (m : Memory) : (s.setBuf b m).encLastEdge = s.encLastEdge := by cases b <;> rfl
@[simp] theorem State.setBuf_encVol (s : State) (b : Buf) (m : Memory) : (s.setBuf b m).encVol = s.encVol := by cases b <;> rfl
@[simp] theorem State.setBuf_bstate (s : State) (b : Buf) (m : Memory) : (s.setBuf b m).bstate = s.bstate := by cases b <;> rfl
@[simp] theorem State.setBuf_bClicks (s : State) (b : Buf) (m : Memory) : (s.setBuf b m).bClicks = s.bClicks := by cases b <;> rfl
@[simp] theorem State.setBuf_bLastClick (s : State) (b : Buf) (m : Memory) : (s.setBuf b m).bLastClick = s.bLastClick := by cases b <;> rfl
@[simp] theorem State.setBuf_bPressStart (s : State) (b : Buf) (m : Memory) : (s.setBuf b m).bPressStart = s.bPressStart := by cases b <;> rfl
@[simp] theorem State.setBuf_dataPort (s : State) (b : Buf) (m : Memory) : (s.setBuf b m).dataPort = s.dataPort := by cases b <;> rfl
@[simp] theorem State.setBuf_heldFrames (s : State) (b : Buf) (m : Memory) : (s.setBuf b m).heldFrames = s.heldFrames := by cases b <;> rfl
@[simp] theorem State.setBuf_heldMutes (s : State) (b : Buf) (m : Memory) : (s.setBuf b m).heldMutes = s.heldMutes := by cases b <;> rfl
@[simp] theorem State.setBuf_agenda (s : State) (b : Buf) (m : Memory) : (s.setBuf b m).agenda = s.agenda := by cases b <;> rfl
@[simp] theorem State.setBuf_history (s : State) (b : Buf) (m : Memory) : (s.setBuf b m).history = s.history := by cases b <;> rfl
@[simp] theorem State.setBuf_freeBuf (s : State) (b : Buf) (m : Memory) : (s.setBuf b m).freeBuf = s.freeBuf := by cases b <;> rfl
@[simp] theorem State.setBuf_freePick (s : State) (b : Buf) (m : Memory) : (s.setBuf b m).freePick = s.freePick := by cases b <;> rfl

@[simp] theorem State.buf_setBuf (s : State) (b c : Buf) (m : Memory) :
    (s.setBuf b m).buf c = if c = b then m else s.buf c := by
  cases b <;> cases c <;> rfl

theorem State.inBuf_eq (s : State) : s.inBuf = s.buf .inBuf := rfl
theorem State.bassBuf_eq (s : State) : s.bassBuf = s.buf .bassBuf := rfl
theorem State.midBuf_eq (s : State) : s.midBuf = s.buf .midBuf := rfl

/-! ### storeSamples -/

@[simp] theorem State.storeSamples_pstate (s : State) (b : Buf) (i : Nat) (vs : List Sample) : (s.storeSamples b i vs).pstate = s.pstate := by
  simp [State.storeSamples]
@[simp] theorem State.storeSamples_pn (s : State) (b : Buf) (i : Nat) (vs : List Sample) : (s.storeSamples b i vs).pn = s.pn := by
  simp [State.storeSamples]
@[simp] theorem State.storeSamples_pidx (s : State) (b : Buf) (i : Nat) (vs : List Sample) : (s.storeSamples b i vs).pidx = s.pidx := by
  simp [State.storeSamples]
@[simp] theorem State.storeSamples_pvf (s : State) (b : Buf) (i : Nat) (vs : List Sample) : (s.storeSamples b i vs).pvf = s.pvf := by
  simp [State.storeSamples]
@[simp] theorem State.storeSamples_pwlen (s : State) (b : Buf) (i : Nat) (vs : List Sample) : (s.storeSamples b i vs).pwlen = s.pwlen := by
  simp [State.storeSamples]
@[simp] theorem State.storeSamples_lpY (s : State) (b : Buf) (i : Nat) (vs : List Sample) : (s.storeSamples b i vs).lpY = s.lpY := by
  simp [State.storeSamples]
@[simp] theorem State.storeSamples_vol (s : State) (b : Buf) (i : Nat) (vs : List Sample) : (s.storeSamples b i vs).vol = s.vol := by
  simp [State.storeSamples]
@[simp] theorem State.storeSamples_party (s : State) (b : Buf) (i : Nat) (vs : List Sample) : (s.storeSamples b i vs).party = s.party := by
  simp [State.storeSamples]
@[simp] theorem State.storeSamples_isPlaying (s : State) (b : Buf) (i : Nat) (vs : List Sample) : (s.storeSamples b i vs).isPlaying = s.isPlaying := by
  simp [State.storeSamples]
@[simp] theorem State.storeSamples_notifyArmed (s : State) (b : Buf) (i : Nat) (vs : List Sample) : (s.storeSamples b i vs).notifyArmed = s.notifyArmed := by
  simp [State.storeSamples]
@[simp] theorem State.storeSamples_powerOn (s : State) (b : Buf) (i : Nat) (vs : List Sample) : (s.storeSamples b i vs).powerOn = s.powerOn := by
  simp [State.storeSamples]
@[simp] theorem State.storeSamples_timeMs (s : State) (b : Buf) (i : Nat) (vs : List Sample) : (s.storeSamples b i vs).timeMs = s.timeMs := by
  simp [State.storeSamples]
@[simp] theorem State.storeSamples_encRun (s : State) (b : Buf) (i : Nat) (vs : List Sample) : (s.storeSamples b i vs).encRun = s.encRun := by
  simp [State.storeSamples]
@[simp] theorem State.storeSamples_encPrevA (s : State) (b : Buf) (i : Nat) (vs : List Sample) : (s.storeSamples b i vs).encPrevA = s.encPrevA := by
  simp [State.storeSamples]
@[simp] theorem State.storeSamples_encLastEdge (s : State) (b : Buf) (i : Nat) (vs : List Sample) : (s.storeSamples b i vs).encLastEdge = s.encLastEdge := by
  simp [State.storeSamples]
@[simp] theorem State.storeSamples_encVol (s : State) (b : Buf) (i : Nat) (vs : List Sample) : (s.storeSamples b i vs).encVol = s.encVol := by
  simp [State.storeSamples]
@[simp] theorem State.storeSamples_bstate (s : State) (b : Buf) (i : Nat) (vs : List Sample) : (s.storeSamples b i vs).bstate = s.bstate := by
  simp [State.storeSamples]
@[simp] theorem State.storeSamples_bClicks (s : State) (b : Buf) (i : Nat) (vs : List Sample) : (s.storeSamples b i vs).bClicks = s.bClicks := by
  simp [State.storeSamples]
@[simp] theorem State.storeSamples_bLastClick (s : State) (b : Buf) (i : Nat) (vs : List Sample) : (s.storeSamples b i vs).bLastClick = s.bLastClick := by
  simp [State.storeSamples]
@[simp] theorem State.storeSamples_bPressStart (s : State) (b : Buf) (i : Nat) (vs : List Sample) : (s.storeSamples b i vs).bPressStart = s.bPressStart := by
  simp [State.storeSamples]
@[simp] theorem State.storeSamples_dataPort (s : State) (b : Buf) (i : Nat) (vs : List Sample) : (s.storeSamples b i vs).dataPort = s.dataPort := by
  simp [State.storeSamples]
@[simp] theorem State.storeSamples_heldFrames (s : State) (b : Buf) (i : Nat) (vs : List Sample) : (s.storeSamples b i vs).heldFrames = s.heldFrames := by
  simp [State.storeSamples]
@[simp] theorem State.storeSamples_heldMutes (s : State) (b : Buf) (i : Nat) (vs : List Sample) : (s.storeSamples b i vs).heldMutes = s.heldMutes := by
  simp [State.storeSamples]
@[simp] theorem State.storeSamples_agenda (s : State) (b : Buf) (i : Nat) (vs : List Sample) : (s.storeSamples b i vs).agenda = s.agenda := by
  simp [State.storeSamples]
@[simp] theorem State.storeSamples_history (s : State) (b : Buf) (i : Nat) (vs : List Sample) : (s.storeSamples b i vs).history = s.history := by
  simp [State.storeSamples]
@[simp] theorem State.storeSamples_freeBuf (s : State) (b : Buf) (i : Nat) (vs : List Sample) : (s.storeSamples b i vs).freeBuf = s.freeBuf := by
  simp [State.storeSamples]
@[simp] theorem State.storeSamples_freePick (s : State) (b : Buf) (i : Nat) (vs : List Sample) : (s.storeSamples b i vs).freePick = s.freePick := by
  simp [State.storeSamples]

@[simp] theorem State.buf_storeSamples (s : State) (b c : Buf) (i : Nat) (vs : List Sample) :
    (s.storeSamples b i vs).buf c = if c = b then Memory.writeBlock (s.buf b) (2 * i) (bytesOf vs) else s.buf c := by
  simp [State.storeSamples]

/-! ### writeBands -/

@[simp] theorem State.writeBands_pstate (s : State) (x : F32) : (s.writeBands x).pstate = s.pstate := by
  simp [State.writeBands]
@[simp] theorem State.writeBands_pn (s : State) (x : F32) : (s.writeBands x).pn = s.pn := by
  simp [State.writeBands]
@[simp] theorem State.writeBands_pidx (s : State) (x : F32) : (s.writeBands x).pidx = s.pidx := by
  simp [State.writeBands]
@[simp] theorem State.writeBands_pvf (s : State) (x : F32) : (s.writeBands x).pvf = s.pvf := by
  simp [State.writeBands]
@[simp] theorem State.writeBands_pwlen (s : State) (x : F32) : (s.writeBands x).pwlen = s.pwlen := by
  simp [State.writeBands]
@[simp] theorem State.writeBands_lpY (s : State) (x : F32) : (s.writeBands x).lpY = s.lpY := by
  simp [State.writeBands]
@[simp] theorem State.writeBands_vol (s : State) (x : F32) : (s.writeBands x).vol = s.vol := by
  simp [State.writeBands]
@[simp] theorem State.writeBands_party (s : State) (x : F32) : (s.writeBands x).party = s.party := by
  simp [State.writeBands]
@[simp] theorem State.writeBands_isPlaying (s : State) (x : F32) : (s.writeBands x).isPlaying = s.isPlaying := by
  simp [State.writeBands]
@[simp] theorem State.writeBands_notifyArmed (s : State) (x : F32) : (s.writeBands x).notifyArmed = s.notifyArmed := by
  simp [State.writeBands]
@[simp] theorem State.writeBands_powerOn (s : State) (x : F32) : (s.writeBands x).powerOn = s.powerOn := by
  simp [State.writeBands]
@[simp] theorem State.writeBands_timeMs (s : State) (x : F32) : (s.writeBands x).timeMs = s.timeMs := by
  simp [State.writeBands]
@[simp] theorem State.writeBands_encRun (s : State) (x : F32) : (s.writeBands x).encRun = s.encRun := by
  simp [State.writeBands]
@[simp] theorem State.writeBands_encPrevA (s : State) (x : F32) : (s.writeBands x).encPrevA = s.encPrevA := by
  simp [State.writeBands]
@[simp] theorem State.writeBands_encLastEdge (s : State) (x : F32) : (s.writeBands x).encLastEdge = s.encLastEdge := by
  simp [State.writeBands]
@[simp] theorem State.writeBands_encVol (s : State) (x : F32) : (s.writeBands x).encVol = s.encVol := by
  simp [State.writeBands]
@[simp] theorem State.writeBands_bstate (s : State) (x : F32) : (s.writeBands x).bstate = s.bstate := by
  simp [State.writeBands]
@[simp] theorem State.writeBands_bClicks (s : State) (x : F32) : (s.writeBands x).bClicks = s.bClicks := by
  simp [State.writeBands]
@[simp] theorem State.writeBands_bLastClick (s : State) (x : F32) : (s.writeBands x).bLastClick = s.bLastClick := by
  simp [State.writeBands]
@[simp] theorem State.writeBands_bPressStart (s : State) (x : F32) : (s.writeBands x).bPressStart = s.bPressStart := by
  simp [State.writeBands]
@[simp] theorem State.writeBands_dataPort (s : State) (x : F32) : (s.writeBands x).dataPort = s.dataPort := by
  simp [State.writeBands]
@[simp] theorem State.writeBands_heldFrames (s : State) (x : F32) : (s.writeBands x).heldFrames = s.heldFrames := by
  simp [State.writeBands]
@[simp] theorem State.writeBands_heldMutes (s : State) (x : F32) : (s.writeBands x).heldMutes = s.heldMutes := by
  simp [State.writeBands]
@[simp] theorem State.writeBands_agenda (s : State) (x : F32) : (s.writeBands x).agenda = s.agenda := by
  simp [State.writeBands]
@[simp] theorem State.writeBands_history (s : State) (x : F32) : (s.writeBands x).history = s.history := by
  simp [State.writeBands]
@[simp] theorem State.writeBands_freeBuf (s : State) (x : F32) : (s.writeBands x).freeBuf = s.freeBuf := by
  simp [State.writeBands]
@[simp] theorem State.writeBands_freePick (s : State) (x : F32) : (s.writeBands x).freePick = s.freePick := by
  simp [State.writeBands]

/-! ### advance and computeSample -/


@[simp] theorem State.advance_pn (s : State) : s.advance.pn = s.pn := by
  unfold State.advance; split <;> rfl
@[simp] theorem State.advance_pvf (s : State) : s.advance.pvf = s.pvf := by
  unfold State.advance; split <;> rfl
@[simp] theorem State.advance_inBuf (s : State) : s.advance.inBuf = s.inBuf := by
  unfold State.advance; split <;> rfl
@[simp] theorem State.advance_bassBuf (s : State) : s.advance.bassBuf = s.bassBuf := by
  unfold State.advance; split <;> rfl
@[simp] theorem State.advance_midBuf (s : State) : s.advance.midBuf = s.midBuf := by
  unfold State.advance; split <;> rfl
@[simp] theorem State.advance_lpY (s : State) : s.advance.lpY = s.lpY := by
  unfold State.advance; split <;> rfl
@[simp] theorem State.advance_vol (s : State) : s.advance.vol = s.vol := by
  unfold State.advance; split <;> rfl
@[simp] theorem State.advance_party (s : State) : s.advance.party = s.party := by
  unfold State.advance; split <;> rfl
@[simp] theorem State.advance_isPlaying (s : State) : s.advance.isPlaying = s.isPlaying := by
  unfold State.advance; split <;> rfl
@[simp] theorem State.advance_notifyArmed (s : State) : s.advance.notifyArmed = s.notifyArmed := by
  unfold State.advance; split <;> rfl
@[simp] theorem State.advance_powerOn (s : State) : s.advance.powerOn = s.powerOn := by
  unfold State.advance; split <;> rfl
@[simp] theorem State.advance_timeMs (s : State) : s.advance.timeMs = s.timeMs := by
  unfold State.advance; split <;> rfl
@[simp] theorem State.advance_encRun (s : State) : s.advance.encRun = s.encRun := by
  unfold State.advance; split <;> rfl
@[simp] theorem State.advance_encPrevA (s : State) : s.advance.encPrevA = s.encPrevA := by
  unfold State.advance; split <;> rfl
@[simp] theorem State.advance_encLastEdge (s : State) : s.advance.encLastEdge = s.encLastEdge := by
  unfold State.advance; split <;> rfl
@[simp] theorem State.advance_encVol (s : State) : s.advance.encVol = s.encVol := by
  unfold State.advance; split <;> rfl
@[simp] theorem State.advance_bstate (s : State) : s.advance.bstate = s.bstate := by
  unfold State.advance; split <;> rfl
@[simp] theorem State.advance_bClicks (s : State) : s.advance.bClicks = s.bClicks := by
  unfold State.advance; split <;> rfl
@[simp] theorem State.advance_bLastClick (s : State) : s.advance.bLastClick = s.bLastClick := by
  unfold State.advance; split <;> rfl
@[simp] theorem State.advance_bPressStart (s : State) : s.advance.bPressStart = s.bPressStart := by
  unfold State.advance; split <;> rfl
@[simp] theorem State.advance_dataPort (s : State) : s.advance.dataPort = s.dataPort := by
  unfold State.advance; split <;> rfl
@[simp] theorem State.advance_heldFrames (s : State) : s.advance.heldFrames = s.heldFrames := by
  unfold State.advance; split <;> rfl
@[simp] theorem State.advance_heldMutes (s : State) : s.advance.heldMutes = s.heldMutes := by
  unfold State.advance; split <;> rfl
@[simp] theorem State.advance_agenda (s : State) : s.advance.agenda = s.agenda := by
  unfold State.advance; split <;> rfl
@[simp] theorem State.advance_freeBuf (s : State) : s.advance.freeBuf = s.freeBuf := by
  unfold State.advance; split <;> rfl
@[simp] theorem State.advance_freePick (s : State) : s.advance.freePick = s.freePick := by
  unfold State.advance; split <;> rfl

@[simp] theorem State.computeSample_pn (s : State) : s.computeSample.pn = s.pn := by
  rw [State.computeSample, State.advance_pn, State.writeBands_pn, State.clockFilter_pn]
@[simp] theorem State.computeSample_pvf (s : State) : s.computeSample.pvf = s.pvf := by
  rw [State.computeSample, State.advance_pvf, State.writeBands_pvf, State.clockFilter_pvf]
@[simp] theorem State.computeSample_vol (s : State) : s.computeSample.vol = s.vol := by
  rw [State.computeSample, State.advance_vol, State.writeBands_vol, State.clockFilter_vol]
@[simp] theorem State.computeSample_party (s : State) : s.computeSample.party = s.party := by
  rw [State.computeSample, State.advance_party, State.writeBands_party, State.clockFilter_party]
@[simp] theorem State.computeSample_isPlaying (s : State) : s.computeSample.isPlaying = s.isPlaying := by
  rw [State.computeSample, State.advance_isPlaying, State.writeBands_isPlaying, State.clockFilter_isPlaying]
@[simp] theorem State.computeSample_notifyArmed (s : State) : s.computeSample.notifyArmed = s.notifyArmed := by
  rw [State.computeSample, State.advance_notifyArmed, State.writeBands_notifyArmed, State.clockFilter_notifyArmed]
@[simp] theorem State.computeSample_powerOn (s : State) : s.computeSample.powerOn = s.powerOn := by
  rw [State.computeSample, State.advance_powerOn, State.writeBands_powerOn, State.clockFilter_powerOn]
@[simp] theorem State.computeSample_timeMs (s : State) : s.computeSample.timeMs = s.timeMs := by
  rw [State.computeSample, State.advance_timeMs, State.writeBands_timeMs, State.clockFilter_timeMs]
@[simp] theorem State.computeSample_encRun (s : State) : s.computeSample.encRun = s.encRun := by
  rw [State.computeSample, State.advance_encRun, State.writeBands_encRun, State.clockFilter_encRun]
@[simp] theorem State.computeSample_encPrevA (s : State) : s.computeSample.encPrevA = s.encPrevA := by
  rw [State.computeSample, State.advance_encPrevA, State.writeBands_encPrevA, State.clockFilter_encPrevA]
@[simp] theorem State.computeSample_encLastEdge (s : State) : s.computeSample.encLastEdge = s.encLastEdge := by
  rw [State.computeSample, State.advance_encLastEdge, State.writeBands_encLastEdge, State.clockFilter_encLastEdge]
@[simp] theorem State.computeSample_encVol (s : State) : s.computeSample.encVol = s.encVol := by
  rw [State.computeSample, State.advance_encVol, State.writeBands_encVol, State.clockFilter_encVol]
@[simp] theorem State.computeSample_bstate (s : State) : s.computeSample.bstate = s.bstate := by
  rw [State.computeSample, State.advance_bstate, State.writeBands_bstate, State.clockFilter_bstate]
@[simp] theorem State.computeSample_bClicks (s : State) : s.computeSample.bClicks = s.bClicks := by
  rw [State.computeSample, State.advance_bClicks, State.writeBands_bClicks, State.clockFilter_bClicks]
@[simp] theorem State.computeSample_bLastClick (s : State) : s.computeSample.bLastClick = s.bLastClick := by
  rw [State.computeSample, State.advance_bLastClick, State.writeBands_bLastClick, State.clockFilter_bLastClick]
@[simp] theorem State.computeSample_bPressStart (s : State) : s.computeSample.bPressStart = s.bPressStart := by
  rw [State.computeSample, State.advance_bPressStart, State.writeBands_bPressStart, State.clockFilter_bPressStart]
@[simp] theorem State.computeSample_dataPort (s : State) : s.computeSample.dataPort = s.dataPort := by
  rw [State.computeSample, State.advance_dataPort, State.writeBands_dataPort, State.clockFilter_dataPort]
@[simp] theorem State.computeSample_heldFrames (s : State) : s.computeSample.heldFrames = s.heldFrames := by
  rw [State.computeSample, State.advance_heldFrames, State.writeBands_heldFrames, State.clockFilter_heldFrames]
@[simp] theorem State.computeSample_heldMutes (s : State) : s.computeSample.heldMutes = s.heldMutes := by
  rw [State.computeSample, State.advance_heldMutes, State.writeBands_heldMutes, State.clockFilter_heldMutes]
@[simp] theorem State.computeSample_agenda (s : State) : s.computeSample.agenda = s.agenda := by
  rw [State.computeSample, State.advance_agenda, State.writeBands_agenda, State.clockFilter_agenda]
@[simp] theorem State.computeSample_freeBuf (s : State) : s.computeSample.freeBuf = s.freeBuf := by
  rw [State.computeSample, State.advance_freeBuf, State.writeBands_freeBuf, State.clockFilter_freeBuf]
@[simp] theorem State.computeSample_freePick (s : State) : s.computeSample.freePick = s.freePick := by
  rw [State.computeSample, State.advance_freePick, State.writeBands_freePick, State.clockFilter_freePick]

@[simp] theorem State.advance_buf (s : State) (b : Buf) : s.advance.buf b = s.buf b := by
  cases b
  · exact State.advance_inBuf s
  · exact State.advance_bassBuf s
  · exact State.advance_midBuf s

@[simp] theorem State.advance_pidx (s : State) : s.advance.pidx = s.pidx + 1#13 := by
  unfold State.advance; split <;> rfl

@[simp] theorem State.writeBands_inBuf (s : State) (x : F32) : (s.writeBands x).inBuf = s.inBuf := rfl

@[simp] theorem State.computeSample_inBuf (s : State) : s.computeSample.inBuf = s.inBuf := by
  rw [State.computeSample, State.advance_inBuf, State.writeBands_inBuf, State.clockFilter_inBuf]

@[simp] theorem State.computeSample_pidx (s : State) : s.computeSample.pidx = s.pidx + 1#13 := by
  rw [State.computeSample, State.advance_pidx, State.writeBands_pidx, State.clockFilter_pidx]

/-- The filter value a sample leaves (42_pipeline.md R153). -/
@[simp] theorem State.computeSample_lpY (s : State) : s.computeSample.lpY = filterNext s.sampleInput s.lpY := by
  rw [State.computeSample, State.advance_lpY, State.writeBands_lpY, State.clockFilter_lpY]

/-- The buffers a sample leaves are those BAND_EVAL leaves (42_pipeline.md R153). -/
theorem State.computeSample_buf (s : State) (b : Buf) :
    s.computeSample.buf b = ((s.clockFilter s.sampleInput).writeBands s.sampleInput).buf b := by
  rw [State.computeSample, State.advance_buf]

/-! ### acceptFrame, startMute and offerMid -/

@[simp] theorem State.acceptFrame_pwlen (s : State) (len : BitVec 24) : (s.acceptFrame len).pwlen = s.pwlen := by
  simp [State.acceptFrame]
@[simp] theorem State.acceptFrame_bassBuf (s : State) (len : BitVec 24) : (s.acceptFrame len).bassBuf = s.bassBuf := rfl
@[simp] theorem State.acceptFrame_midBuf (s : State) (len : BitVec 24) : (s.acceptFrame len).midBuf = s.midBuf := rfl
@[simp] theorem State.acceptFrame_lpY (s : State) (len : BitVec 24) : (s.acceptFrame len).lpY = s.lpY := by
  simp [State.acceptFrame]
@[simp] theorem State.acceptFrame_vol (s : State) (len : BitVec 24) : (s.acceptFrame len).vol = s.vol := by
  simp [State.acceptFrame]
@[simp] theorem State.acceptFrame_party (s : State) (len : BitVec 24) : (s.acceptFrame len).party = s.party := by
  simp [State.acceptFrame]
@[simp] theorem State.acceptFrame_isPlaying (s : State) (len : BitVec 24) : (s.acceptFrame len).isPlaying = s.isPlaying := by
  simp [State.acceptFrame]
@[simp] theorem State.acceptFrame_notifyArmed (s : State) (len : BitVec 24) : (s.acceptFrame len).notifyArmed = s.notifyArmed := by
  simp [State.acceptFrame]
@[simp] theorem State.acceptFrame_powerOn (s : State) (len : BitVec 24) : (s.acceptFrame len).powerOn = s.powerOn := by
  simp [State.acceptFrame]
@[simp] theorem State.acceptFrame_timeMs (s : State) (len : BitVec 24) : (s.acceptFrame len).timeMs = s.timeMs := by
  simp [State.acceptFrame]
@[simp] theorem State.acceptFrame_encRun (s : State) (len : BitVec 24) : (s.acceptFrame len).encRun = s.encRun := by
  simp [State.acceptFrame]
@[simp] theorem State.acceptFrame_encPrevA (s : State) (len : BitVec 24) : (s.acceptFrame len).encPrevA = s.encPrevA := by
  simp [State.acceptFrame]
@[simp] theorem State.acceptFrame_encLastEdge (s : State) (len : BitVec 24) : (s.acceptFrame len).encLastEdge = s.encLastEdge := by
  simp [State.acceptFrame]
@[simp] theorem State.acceptFrame_encVol (s : State) (len : BitVec 24) : (s.acceptFrame len).encVol = s.encVol := by
  simp [State.acceptFrame]
@[simp] theorem State.acceptFrame_bstate (s : State) (len : BitVec 24) : (s.acceptFrame len).bstate = s.bstate := by
  simp [State.acceptFrame]
@[simp] theorem State.acceptFrame_bClicks (s : State) (len : BitVec 24) : (s.acceptFrame len).bClicks = s.bClicks := by
  simp [State.acceptFrame]
@[simp] theorem State.acceptFrame_bLastClick (s : State) (len : BitVec 24) : (s.acceptFrame len).bLastClick = s.bLastClick := by
  simp [State.acceptFrame]
@[simp] theorem State.acceptFrame_bPressStart (s : State) (len : BitVec 24) : (s.acceptFrame len).bPressStart = s.bPressStart := by
  simp [State.acceptFrame]
@[simp] theorem State.acceptFrame_dataPort (s : State) (len : BitVec 24) : (s.acceptFrame len).dataPort = s.dataPort := by
  simp [State.acceptFrame]
@[simp] theorem State.acceptFrame_heldFrames (s : State) (len : BitVec 24) : (s.acceptFrame len).heldFrames = s.heldFrames := by
  simp [State.acceptFrame]
@[simp] theorem State.acceptFrame_heldMutes (s : State) (len : BitVec 24) : (s.acceptFrame len).heldMutes = s.heldMutes := by
  simp [State.acceptFrame]
@[simp] theorem State.acceptFrame_agenda (s : State) (len : BitVec 24) : (s.acceptFrame len).agenda = s.agenda := by
  simp [State.acceptFrame]
@[simp] theorem State.acceptFrame_history (s : State) (len : BitVec 24) : (s.acceptFrame len).history = s.history := by
  simp [State.acceptFrame]
@[simp] theorem State.acceptFrame_freeBuf (s : State) (len : BitVec 24) : (s.acceptFrame len).freeBuf = s.freeBuf := by
  simp [State.acceptFrame]
@[simp] theorem State.acceptFrame_freePick (s : State) (len : BitVec 24) : (s.acceptFrame len).freePick = s.freePick := by
  simp [State.acceptFrame]

@[simp] theorem State.startMute_pn (s : State) : s.startMute.pn = s.pn := by
  simp [State.startMute]
@[simp] theorem State.startMute_pidx (s : State) : s.startMute.pidx = s.pidx := by
  simp [State.startMute]
@[simp] theorem State.startMute_pvf (s : State) : s.startMute.pvf = s.pvf := by
  simp [State.startMute]
@[simp] theorem State.startMute_inBuf (s : State) : s.startMute.inBuf = s.inBuf := rfl
@[simp] theorem State.startMute_lpY (s : State) : s.startMute.lpY = s.lpY := by
  simp [State.startMute]
@[simp] theorem State.startMute_vol (s : State) : s.startMute.vol = s.vol := by
  simp [State.startMute]
@[simp] theorem State.startMute_party (s : State) : s.startMute.party = s.party := by
  simp [State.startMute]
@[simp] theorem State.startMute_isPlaying (s : State) : s.startMute.isPlaying = s.isPlaying := by
  simp [State.startMute]
@[simp] theorem State.startMute_notifyArmed (s : State) : s.startMute.notifyArmed = s.notifyArmed := by
  simp [State.startMute]
@[simp] theorem State.startMute_powerOn (s : State) : s.startMute.powerOn = s.powerOn := by
  simp [State.startMute]
@[simp] theorem State.startMute_timeMs (s : State) : s.startMute.timeMs = s.timeMs := by
  simp [State.startMute]
@[simp] theorem State.startMute_encRun (s : State) : s.startMute.encRun = s.encRun := by
  simp [State.startMute]
@[simp] theorem State.startMute_encPrevA (s : State) : s.startMute.encPrevA = s.encPrevA := by
  simp [State.startMute]
@[simp] theorem State.startMute_encLastEdge (s : State) : s.startMute.encLastEdge = s.encLastEdge := by
  simp [State.startMute]
@[simp] theorem State.startMute_encVol (s : State) : s.startMute.encVol = s.encVol := by
  simp [State.startMute]
@[simp] theorem State.startMute_bstate (s : State) : s.startMute.bstate = s.bstate := by
  simp [State.startMute]
@[simp] theorem State.startMute_bClicks (s : State) : s.startMute.bClicks = s.bClicks := by
  simp [State.startMute]
@[simp] theorem State.startMute_bLastClick (s : State) : s.startMute.bLastClick = s.bLastClick := by
  simp [State.startMute]
@[simp] theorem State.startMute_bPressStart (s : State) : s.startMute.bPressStart = s.bPressStart := by
  simp [State.startMute]
@[simp] theorem State.startMute_dataPort (s : State) : s.startMute.dataPort = s.dataPort := by
  simp [State.startMute]
@[simp] theorem State.startMute_heldFrames (s : State) : s.startMute.heldFrames = s.heldFrames := by
  simp [State.startMute]
@[simp] theorem State.startMute_heldMutes (s : State) : s.startMute.heldMutes = s.heldMutes := by
  simp [State.startMute]
@[simp] theorem State.startMute_agenda (s : State) : s.startMute.agenda = s.agenda := by
  simp [State.startMute]
@[simp] theorem State.startMute_freeBuf (s : State) : s.startMute.freeBuf = s.freeBuf := by
  simp [State.startMute]
@[simp] theorem State.startMute_freePick (s : State) : s.startMute.freePick = s.freePick := by
  simp [State.startMute]

@[simp] theorem State.offerMid_pn (s : State) : s.offerMid.pn = s.pn := rfl
@[simp] theorem State.offerMid_pidx (s : State) : s.offerMid.pidx = s.pidx := rfl
@[simp] theorem State.offerMid_pvf (s : State) : s.offerMid.pvf = s.pvf := rfl
@[simp] theorem State.offerMid_pwlen (s : State) : s.offerMid.pwlen = s.pwlen := rfl
@[simp] theorem State.offerMid_inBuf (s : State) : s.offerMid.inBuf = s.inBuf := rfl
@[simp] theorem State.offerMid_bassBuf (s : State) : s.offerMid.bassBuf = s.bassBuf := rfl
@[simp] theorem State.offerMid_midBuf (s : State) : s.offerMid.midBuf = s.midBuf := rfl
@[simp] theorem State.offerMid_lpY (s : State) : s.offerMid.lpY = s.lpY := rfl
@[simp] theorem State.offerMid_vol (s : State) : s.offerMid.vol = s.vol := rfl
@[simp] theorem State.offerMid_party (s : State) : s.offerMid.party = s.party := rfl
@[simp] theorem State.offerMid_isPlaying (s : State) : s.offerMid.isPlaying = s.isPlaying := rfl
@[simp] theorem State.offerMid_notifyArmed (s : State) : s.offerMid.notifyArmed = s.notifyArmed := rfl
@[simp] theorem State.offerMid_powerOn (s : State) : s.offerMid.powerOn = s.powerOn := rfl
@[simp] theorem State.offerMid_timeMs (s : State) : s.offerMid.timeMs = s.timeMs := rfl
@[simp] theorem State.offerMid_encRun (s : State) : s.offerMid.encRun = s.encRun := rfl
@[simp] theorem State.offerMid_encPrevA (s : State) : s.offerMid.encPrevA = s.encPrevA := rfl
@[simp] theorem State.offerMid_encLastEdge (s : State) : s.offerMid.encLastEdge = s.encLastEdge := rfl
@[simp] theorem State.offerMid_encVol (s : State) : s.offerMid.encVol = s.encVol := rfl
@[simp] theorem State.offerMid_bstate (s : State) : s.offerMid.bstate = s.bstate := rfl
@[simp] theorem State.offerMid_bClicks (s : State) : s.offerMid.bClicks = s.bClicks := rfl
@[simp] theorem State.offerMid_bLastClick (s : State) : s.offerMid.bLastClick = s.bLastClick := rfl
@[simp] theorem State.offerMid_bPressStart (s : State) : s.offerMid.bPressStart = s.bPressStart := rfl
@[simp] theorem State.offerMid_dataPort (s : State) : s.offerMid.dataPort = s.dataPort := rfl
@[simp] theorem State.offerMid_heldFrames (s : State) : s.offerMid.heldFrames = s.heldFrames := rfl
@[simp] theorem State.offerMid_heldMutes (s : State) : s.offerMid.heldMutes = s.heldMutes := rfl
@[simp] theorem State.offerMid_agenda (s : State) : s.offerMid.agenda = s.agenda := rfl
@[simp] theorem State.offerMid_freeBuf (s : State) : s.offerMid.freeBuf = s.freeBuf := rfl
@[simp] theorem State.offerMid_freePick (s : State) : s.offerMid.freePick = s.freePick := rfl

/-! ### Buffers under the updates that leave them alone -/

@[simp] theorem State.emit_buf (s : State) (es : List Output) (b : Buf) : (s.emit es).buf b = s.buf b := by cases b <;> rfl
@[simp] theorem State.writeVol_buf (s : State) (v : BitVec 7) (b : Buf) : (s.writeVol v).buf b = s.buf b := by
  cases b <;> rfl
@[simp] theorem State.writeLpY_buf (s : State) (v : F32) (b : Buf) : (s.writeLpY v).buf b = s.buf b := by cases b <;> rfl
@[simp] theorem State.clockFilter_buf (s : State) (x : F32) (b : Buf) : (s.clockFilter x).buf b = s.buf b := by
  cases b <;> rfl
@[simp] theorem State.clearFilter_buf (s : State) (b : Buf) : s.clearFilter.buf b = s.buf b := by cases b <;> rfl
@[simp] theorem State.holdFrame_buf (s : State) (len : BitVec 24) (b : Buf) : (s.holdFrame len).buf b = s.buf b := by
  cases b <;> rfl
@[simp] theorem State.holdMute_buf (s : State) (b : Buf) : s.holdMute.buf b = s.buf b := by cases b <;> rfl

@[simp] theorem State.offerMid_buf (s : State) (b : Buf) : s.offerMid.buf b = s.buf b := by cases b <;> rfl

/-- The buffers an accepted frame leaves (42_pipeline.md R151). -/
theorem State.acceptFrame_buf (s : State) (len : BitVec 24) (b : Buf) :
    (s.acceptFrame len).buf b = (s.storeSamples .inBuf 0 (samplesOf s.dataPort)).buf b := by cases b <;> rfl

/-- The buffers of two states with the same three buffer fields. -/
theorem State.buf_congr {s t : State} (hi : t.inBuf = s.inBuf) (hb : t.bassBuf = s.bassBuf) (hm : t.midBuf = s.midBuf)
    (b : Buf) : t.buf b = s.buf b := by
  cases b
  · exact hi
  · exact hb
  · exact hm

/-- The buffers a mute leaves (42_pipeline.md R156). -/
theorem State.startMute_buf (s : State) (b : Buf) :
    s.startMute.buf b =
      ((s.storeSamples .bassBuf 0 (List.replicate Config.capSamples 0#16)).storeSamples .midBuf 0
        (List.replicate Config.capSamples 0#16)).buf b := by
  refine State.buf_congr ?_ ?_ ?_ b <;> simp [State.startMute]

/-- A byte reads the same in two states with the same buffer and the same free contents. -/
theorem State.readByte_congr {s t : State} {b : Buf} (hb : t.buf b = s.buf b) (hf : t.freeBuf = s.freeBuf) (off : Nat) :
    t.readByte b off = s.readByte b off := by
  simp [State.readByte, hb, hf]

end Sys2Proof.Machine
end

