-- ==== Sys2Proof/Laws/Memory.lean ====
section
/-! SUPPORT. The laws of the byte buffers: what a read gives after a block write, and that a write keeps the canonical form. -/

namespace Sys2Proof.Machine

@[simp] theorem Memory.byteAt_nil (a : Nat) : Memory.byteAt [] a = none := rfl

theorem Memory.byteAt_cons (k : Nat) (v : Byte) (m : Memory) (a : Nat) :
    Memory.byteAt ((k, v) :: m) a = if k = a then some v else Memory.byteAt m a := rfl

theorem Memory.byteAt_append (m n : Memory) (a : Nat) :
    Memory.byteAt (m ++ n) a = (Memory.byteAt m a).or (Memory.byteAt n a) := by
  induction m with
  | nil => simp
  | cons c m ih =>
    obtain ⟨k, v⟩ := c
    simp only [List.cons_append, Memory.byteAt_cons, ih]
    split <;> simp

/-- Filtering by a test on the offset keeps the bytes at the offsets that pass and drops the others. -/
theorem Memory.byteAt_filter (p : Nat → Bool) (m : Memory) (a : Nat) :
    Memory.byteAt (m.filter fun c => p c.1) a = if p a then Memory.byteAt m a else none := by
  induction m with
  | nil => simp
  | cons c m ih =>
    obtain ⟨k, v⟩ := c
    by_cases hk : p k = true
    · rw [List.filter_cons, if_pos hk, Memory.byteAt_cons, Memory.byteAt_cons, ih]
      by_cases hka : k = a
      · subst hka; simp [hk]
      · simp [hka]
    · rw [List.filter_cons, if_neg hk, ih, Memory.byteAt_cons]
      by_cases hka : k = a
      · subst hka; simp [hk]
      · simp [hka]

/-- The cells of a block hold its bytes at consecutive offsets and nothing else. -/
theorem Memory.byteAt_cellsFrom (base : Nat) (bs : List Byte) (a : Nat) :
    Memory.byteAt (Memory.cellsFrom base bs) a = if base ≤ a then bs[a - base]? else none := by
  induction bs generalizing base with
  | nil => simp [Memory.cellsFrom]
  | cons b bs ih =>
    rw [Memory.cellsFrom, Memory.byteAt_cons, ih]
    by_cases h1 : base = a
    · subst h1; simp
    · by_cases h2 : base ≤ a
      · have h3 : base + 1 ≤ a := by omega
        have h4 : a - base = (a - (base + 1)) + 1 := by omega
        simp [h1, h2, h3, h4]
      · have h3 : ¬ base + 1 ≤ a := by omega
        simp [h1, h2, h3]

/-- A read after a block write: the block's byte inside the block, the old byte outside. -/
theorem Memory.byteAt_writeBlock (m : Memory) (base : Nat) (bs : List Byte) (a : Nat) :
    Memory.byteAt (Memory.writeBlock m base bs) a =
      if base ≤ a ∧ a < base + bs.length then bs[a - base]? else Memory.byteAt m a := by
  unfold Memory.writeBlock
  rw [Memory.byteAt_append, Memory.byteAt_append, Memory.byteAt_cellsFrom,
    Memory.byteAt_filter (fun k => decide (k < base)), Memory.byteAt_filter (fun k => decide (base + bs.length ≤ k))]
  by_cases h1 : base ≤ a
  · by_cases h2 : a < base + bs.length
    · have h3 : ¬ a < base := by omega
      have h4 : ¬ base + bs.length ≤ a := by omega
      simp [h1, h2, h3, h4]
    · have h3 : ¬ a < base := by omega
      have h4 : base + bs.length ≤ a := by omega
      have h5 : bs.length ≤ a - base := by omega
      simp [h1, h2, h3, h4, List.getElem?_eq_none h5]
  · have h3 : a < base := by omega
    have h4 : ¬ base + bs.length ≤ a := by omega
    simp [h1, h3, h4]

theorem Memory.mem_cellsFrom {base : Nat} {bs : List Byte} {c : Host.Cell} (h : c ∈ Memory.cellsFrom base bs) :
    base ≤ c.1 ∧ c.1 < base + bs.length := by
  induction bs generalizing base with
  | nil => simp [Memory.cellsFrom] at h
  | cons b bs ih =>
    rw [Memory.cellsFrom, List.mem_cons] at h
    rcases h with rfl | h
    · simp
    · have := ih h
      simp only [List.length_cons]
      omega

theorem Memory.cellsFrom_wf (base : Nat) (bs : List Byte) : Memory.wf (Memory.cellsFrom base bs) := by
  induction bs generalizing base with
  | nil => exact List.Pairwise.nil
  | cons b bs ih =>
    refine List.Pairwise.cons (fun c hc => ?_) (ih _)
    have := Memory.mem_cellsFrom hc
    simp only
    omega

/-- A block write keeps the canonical form. -/
theorem Memory.writeBlock_wf {m : Memory} (h : Memory.wf m) (base : Nat) (bs : List Byte) :
    Memory.wf (Memory.writeBlock m base bs) := by
  unfold Memory.writeBlock Memory.wf
  rw [List.pairwise_append, List.pairwise_append]
  refine ⟨⟨h.filter _, Memory.cellsFrom_wf _ _, ?_⟩, h.filter _, ?_⟩
  · intro c hc d hd
    have h1 := (List.mem_filter.mp hc).2
    have h2 := Memory.mem_cellsFrom hd
    simp only [decide_eq_true_eq] at h1
    omega
  · intro c hc d hd
    have h2 := (List.mem_filter.mp hd).2
    simp only [decide_eq_true_eq] at h2
    rcases List.mem_append.mp hc with hc | hc
    · have h1 := (List.mem_filter.mp hc).2
      simp only [decide_eq_true_eq] at h1
      omega
    · have h1 := Memory.mem_cellsFrom hc
      omega

/-- A block write inside the buffer lists no offset beyond it. -/
theorem Memory.writeBlock_inRange {m : Memory} (h : Memory.inRange m) {base : Nat} {bs : List Byte}
    (hb : base + bs.length ≤ Config.capBytes) : Memory.inRange (Memory.writeBlock m base bs) := by
  intro c hc
  unfold Memory.writeBlock at hc
  rcases List.mem_append.mp hc with hc | hc
  · rcases List.mem_append.mp hc with hc | hc
    · exact h c (List.mem_filter.mp hc).1
    · have := Memory.mem_cellsFrom hc
      omega
  · exact h c (List.mem_filter.mp hc).1

/-- A block write keeps the written bytes written. -/
theorem Memory.listedTo_writeBlock {m : Memory} {n : Nat} (h : Memory.listedTo m n) (base : Nat) (bs : List Byte) :
    Memory.listedTo (Memory.writeBlock m base bs) n := by
  intro k hk
  rw [Memory.byteAt_writeBlock]
  split
  · rw [List.getElem?_eq_getElem (by omega)]; rfl
  · exact h k hk

/-- A block write that begins no later than the written bytes end adds its own. -/
theorem Memory.listedTo_writeBlock_extend {m : Memory} {n base : Nat} {bs : List Byte} (h : Memory.listedTo m base)
    (hn : n ≤ base + bs.length) : Memory.listedTo (Memory.writeBlock m base bs) n := by
  intro k hk
  rw [Memory.byteAt_writeBlock]
  split
  · rw [List.getElem?_eq_getElem (by omega)]; rfl
  · exact h k (by omega)

/-- Canonical form makes equal buffers equal data: two canonical buffers with the same byte at every offset are equal. -/
theorem Memory.eq_of_byteAt {m n : Memory} (hm : Memory.wf m) (hn : Memory.wf n)
    (h : ∀ a, Memory.byteAt m a = Memory.byteAt n a) : m = n := by
  have key : ∀ {m : Memory} {a k : Nat} {v : Byte}, Memory.wf ((k, v) :: m) → a ≤ k →
      Memory.byteAt m a = none := by
    intro m
    induction m with
    | nil => intros; rfl
    | cons c m ih =>
      intro a k v hw hak
      obtain ⟨k', v'⟩ := c
      have hw' := List.pairwise_cons.mp hw
      have hlt : k < k' := hw'.1 (k', v') (by simp)
      rw [Memory.byteAt_cons, if_neg (by omega)]
      exact ih hw'.2 (by omega)
  induction m generalizing n with
  | nil =>
    cases n with
    | nil => rfl
    | cons d n => obtain ⟨k, v⟩ := d; simpa [Memory.byteAt_cons] using h k
  | cons c m ih =>
    obtain ⟨k, v⟩ := c
    cases n with
    | nil => simpa [Memory.byteAt_cons] using h k
    | cons d n =>
      obtain ⟨k', v'⟩ := d
      have hk : k = k' := by
        rcases Nat.lt_trichotomy k k' with hlt | heq | hgt
        · have := h k
          rw [Memory.byteAt_cons, if_pos rfl, Memory.byteAt_cons, if_neg (by omega), key hn (by omega)] at this
          simp at this
        · exact heq
        · have := h k'
          rw [Memory.byteAt_cons, if_neg (by omega), Memory.byteAt_cons, if_pos rfl, key hm (by omega)] at this
          simp at this
      subst hk
      have hv : v = v' := by simpa [Memory.byteAt_cons] using h k
      subst hv
      have : m = n := by
        refine ih (List.pairwise_cons.mp hm).2 (List.pairwise_cons.mp hn).2 fun a => ?_
        by_cases ha : k = a
        · subst ha; rw [key hm (Nat.le_refl _), key hn (Nat.le_refl _)]
        · simpa [Memory.byteAt_cons, ha] using h a
      rw [this]

/-! ## Samples and bytes -/

@[simp] theorem bytesOf_length (vs : List Sample) : (bytesOf vs).length = 2 * vs.length := by
  induction vs with
  | nil => rfl
  | cons v vs ih => simp only [bytesOf, List.length_cons, ih]; omega

theorem samplesOf_length (bs : List Byte) : (samplesOf bs).length = bs.length / 2 := by
  induction bs using samplesOf.induct with
  | case1 lo hi rest ih => simp only [samplesOf, List.length_cons, ih]; omega
  | case2 bs h =>
    match bs, h with
    | [], _ => rfl
    | [_], _ => simp [samplesOf]
    | a :: b :: c, h => exact absurd rfl (h a b c)

/-- Sample `i` of a frame is its byte `2i + 1` above its byte `2i` (20_memory.md R64). -/
theorem samplesOf_getElem? (bs : List Byte) (i : Nat) :
    (samplesOf bs)[i]? = (bs[2 * i + 1]?).bind fun hi => (bs[2 * i]?).map fun lo => hi ++ lo := by
  induction bs using samplesOf.induct generalizing i with
  | case1 lo hi rest ih =>
    cases i with
    | zero => simp [samplesOf]
    | succ i =>
      have h2 : 2 * (i + 1) = 2 * i + 1 + 1 := by omega
      simp only [samplesOf, List.getElem?_cons_succ, h2, ih]
  | case2 bs h =>
    match bs, h with
    | [], _ => simp [samplesOf]
    | [_], _ => simp [samplesOf]
    | a :: b :: c, h => exact absurd rfl (h a b c)

/-- The bytes of a sample list: the low byte at an even place, the high byte at an odd one (20_memory.md R65). -/
theorem bytesOf_getElem? (vs : List Sample) (k : Nat) :
    (bytesOf vs)[k]? = (vs[k / 2]?).map fun v => if k % 2 = 0 then v.extractLsb' 0 8 else v.extractLsb' 8 8 := by
  induction vs generalizing k with
  | nil => simp [bytesOf]
  | cons v vs ih =>
    match k with
    | 0 => simp [bytesOf]
    | 1 => simp [bytesOf]
    | k + 2 =>
      have h1 : (k + 2) / 2 = k / 2 + 1 := by omega
      have h2 : (k + 2) % 2 = k % 2 := by omega
      simp only [bytesOf, List.getElem?_cons_succ, ih, h1, h2]

/-- Bit `i` of two bytes as a sample. -/
theorem sample_getLsbD (hi lo : Byte) (i : Nat) :
    BitVec.getLsbD (w := 16) (hi ++ lo) i = if i < 8 then lo.getLsbD i else hi.getLsbD (i - 8) :=
  BitVec.getLsbD_append

@[simp] theorem low_byte_of_sample (hi lo : Byte) : (hi ++ lo : Sample).extractLsb' 0 8 = lo := by
  apply BitVec.eq_of_getLsbD_eq
  intro i hi
  rw [BitVec.getLsbD_extractLsb', sample_getLsbD]
  simp [hi]

@[simp] theorem high_byte_of_sample (hi lo : Byte) : (hi ++ lo : Sample).extractLsb' 8 8 = hi := by
  apply BitVec.eq_of_getLsbD_eq
  intro i hi
  rw [BitVec.getLsbD_extractLsb', sample_getLsbD]
  simp [hi]

/-- A sample is its two bytes. -/
theorem sample_of_bytes (v : Sample) : (v.extractLsb' 8 8 ++ v.extractLsb' 0 8 : Sample) = v := by
  apply BitVec.eq_of_getLsbD_eq
  intro i hi
  rw [sample_getLsbD, BitVec.getLsbD_extractLsb', BitVec.getLsbD_extractLsb']
  by_cases h : i < 8
  · simp [h]
  · have h2 : i - 8 < 8 := by omega
    simp [h, h2, show 8 + (i - 8) = i by omega]

/-- The bytes of the samples of a frame are its first bytes, up to the last whole sample. -/
theorem bytesOf_samplesOf_getElem? (bs : List Byte) (k : Nat) (hk : k < 2 * (bs.length / 2)) :
    (bytesOf (samplesOf bs))[k]? = bs[k]? := by
  have h0 : k < bs.length := by omega
  rw [bytesOf_getElem?, samplesOf_getElem?]
  have hlo : 2 * (k / 2) < bs.length := by omega
  have hhi : 2 * (k / 2) + 1 < bs.length := by omega
  rw [List.getElem?_eq_getElem hlo, List.getElem?_eq_getElem hhi, List.getElem?_eq_getElem h0]
  by_cases he : k % 2 = 0
  · have hk2 : 2 * (k / 2) = k := by omega
    simp [he, hk2]
  · have hk2 : 2 * (k / 2) + 1 = k := by omega
    simp [he, hk2]

/-! ## Reads and writes of the buffers of a state -/

/-- A byte read after samples were stored: their byte inside, the old byte outside and in the other buffers. -/
theorem State.readByte_storeSamples (s : State) (b c : Buf) (i : Nat) (vs : List Sample) (off : Nat) :
    (s.storeSamples b i vs).readByte c off =
      if c = b ∧ 2 * i ≤ off ∧ off < 2 * i + 2 * vs.length then ((bytesOf vs)[off - 2 * i]?).getD 0
      else s.readByte c off := by
  unfold State.readByte
  by_cases hc : c = b
  · subst hc
    simp only [State.buf_storeSamples, if_true, Memory.byteAt_writeBlock, bytesOf_length, State.storeSamples_freeBuf,
      true_and]
    by_cases h : 2 * i ≤ off ∧ off < 2 * i + 2 * vs.length
    · have hlt : off - 2 * i < (bytesOf vs).length := by simp only [bytesOf_length]; omega
      simp [h, List.getElem?_eq_getElem hlt]
    · simp [h]
  · simp [hc]

/-- A sample read back where one sample was stored. -/
theorem State.readSample_storeSamples_self (s : State) (b : Buf) (i : Nat) (v : Sample) :
    (s.storeSamples b i [v]).readSample b i = v := by
  unfold State.readSample
  rw [State.readByte_storeSamples, State.readByte_storeSamples]
  have h1 : 2 * i + 1 - 2 * i = 1 := by omega
  simp [bytesOf, h1, sample_of_bytes]

/-- Byte `k` of a sink write of `n` samples is byte `k` of the buffer (20_memory.md R65). -/
theorem State.bytesLE_getElem? (s : State) (b : Buf) (n k : Nat) (hk : k < 2 * n) :
    (s.bytesLE b n)[k]? = some (s.readByte b k) := by
  unfold State.bytesLE
  rw [bytesOf_getElem?]
  have h1 : k / 2 < n := by omega
  have h2 : k / 2 < ((List.range n).map (s.readSample b)).length := by simpa using h1
  rw [List.getElem?_eq_getElem h2]
  by_cases he : k % 2 = 0
  · have hk2 : 2 * (k / 2) = k := by omega
    simp [he, State.readSample, hk2]
  · have hk2 : 2 * (k / 2) + 1 = k := by omega
    simp [he, State.readSample, hk2]

@[simp] theorem State.bytesLE_length (s : State) (b : Buf) (n : Nat) : (s.bytesLE b n).length = 2 * n := by
  simp [State.bytesLE]

/-- Storing samples within a buffer keeps every buffer canonical and in range. -/
theorem State.buffersWf_storeSamples {s : State} (h : s.buffersWf) {b : Buf} {i : Nat} {vs : List Sample}
    (hi : 2 * i + 2 * vs.length ≤ 8192) : (s.storeSamples b i vs).buffersWf := by
  intro c
  rw [State.buf_storeSamples]
  by_cases hc : c = b
  · subst hc
    rw [if_pos rfl]
    exact ⟨Memory.writeBlock_wf (h c).1 _ _, Memory.writeBlock_inRange (h c).2 (by rw [bytesOf_length]; exact hi)⟩
  · rw [if_neg hc]; exact h c

theorem State.buffersWf_congr {s t : State} (hb : ∀ b, t.buf b = s.buf b) (h : s.buffersWf) : t.buffersWf := by
  intro b
  rw [hb]
  exact h b

/-- The empty buffers of the reset state have the canonical form. -/
theorem State.reset_buf_wf (b : Buf) : Memory.wf (State.reset.buf b) := by cases b <;> exact List.Pairwise.nil

/-- A listed byte does not depend on the free contents. -/
theorem State.readByte_of_listed {s : State} {b : Buf} {off : Nat} (h : (Memory.byteAt (s.buf b) off).isSome = true) (k : Nat) :
    ({ s with freeBuf := k } : State).readByte b off = s.readByte b off := by
  obtain ⟨v, hv⟩ := Option.isSome_iff_exists.mp h
  have hb : ({ s with freeBuf := k } : State).buf b = s.buf b := by cases b <;> rfl
  simp [State.readByte, hb, hv]

end Sys2Proof.Machine
end

