-- ==== Sys2Proof/Laws/Ops.lean ====
section
/-! SUPPORT. What each shared operation of the machine does, as one record update, and each instruction's possible next
states, once: later proofs cite these instead of unfolding. -/

namespace Sys2Proof.Machine

/-! ## `VOL` as a byte -/

@[simp] theorem State.volByte_toNat (s : State) : s.volByte.toNat = s.vol.toNat := by
  have := s.vol.isLt
  simp only [State.volByte, BitVec.toNat_setWidth]
  omega

@[simp] theorem State.encVolByte_toNat (s : State) : s.encVolByte.toNat = s.encVol.toNat := by
  have := s.encVol.isLt
  simp only [State.encVolByte, BitVec.toNat_setWidth]
  omega

theorem satVol_toNat (v : BitVec 16) : (satVol v).toNat = min v.toNat 127 := by
  simp only [satVol, Config.volMax, BitVec.toNat_ofNat]
  omega

/-- The saturating update as integer arithmetic (43_encoder.md R185). -/
theorem encNext_toNat (v : BitVec 7) (step : Nat) (up : Bool) :
    (encNext v step up).toNat = if up then min 127 (v.toNat + step) else v.toNat - step := by
  have := v.isLt
  simp only [encNext, Config.volMax, BitVec.toNat_ofNat]
  cases up
  · by_cases h : step > v.toNat <;> simp only [h, if_true, if_false, Bool.false_eq_true] <;> omega
  · by_cases h : v.toNat + step > 127 <;> simp only [h, if_true, if_false] <;> omega

/-- A 32-bit difference as integer arithmetic (00_scope.md R9). -/
theorem elapsed_eq (now t : BitVec 32) : elapsed now t = (now.toNat + 2 ^ 32 - t.toNat) % 2 ^ 32 := by
  have := t.isLt
  simp only [elapsed, BitVec.toNat_sub]
  congr 1
  omega

theorem satInc_toNat (c : BitVec 8) : (satInc c).toNat = min 255 (c.toNat + 1) := by
  have := c.isLt
  unfold satInc
  by_cases h : c.toNat = Config.clickSat
  · rw [if_pos h]; unfold Config.clickSat at h; omega
  · rw [if_neg h]; unfold Config.clickSat at h
    simp only [BitVec.toNat_add, BitVec.toNat_ofNat]
    omega

/-! ## Gesture dispatch -/

/-- The events of a dispatch of `c` clicks (44_button.md R202 to R206). -/
def clickEvents (c : Nat) (playing : Bool) : List Output :=
  if c = 1 then [.cmd (if playing then .pause else .play) .press, .cmd (if playing then .pause else .play) .release]
  else if c = 2 then [.cmd .next .press, .cmd .next .release]
  else if c = 3 then [.cmd .prev .press, .cmd .prev .release]
  else []

/-- A dispatch writes the playing flag, party mode and the history, each as the click count says. -/
theorem clickDispatch_eq (c : Nat) (s : State) :
    clickDispatch c s =
      { s with
        isPlaying := if c = 1 then !s.isPlaying else s.isPlaying
        party := if c = 4 then !s.party else s.party
        history := s.history ++ clickEvents c s.isPlaying } := by
  unfold clickDispatch clickEvents
  by_cases h1 : c = 1
  · subst h1; simp [playPause, remoteCmd, State.emit]
  by_cases h2 : c = 2
  · subst h2; simp [remoteCmd, State.emit]
  by_cases h3 : c = 3
  · subst h3; simp [remoteCmd, State.emit]
  by_cases h4 : c = 4
  · subst h4; simp [partyToggle]
  simp [h1, h2, h3, h4]

/-- Whether a poll in `B_IDLE` dispatches a pending gesture (44_button.md R201). -/
def State.gestureDue (s : State) : Bool := decide (0 < s.bClicks.toNat) && s.gapOver

theorem timeoutDispatch_eq (s : State) :
    s.timeoutDispatch =
      { s with
        isPlaying := if s.gestureDue && s.bClicks.toNat == 1 then !s.isPlaying else s.isPlaying
        party := if s.gestureDue && s.bClicks.toNat == 4 then !s.party else s.party
        history := s.history ++ if s.gestureDue then clickEvents s.bClicks.toNat s.isPlaying else []
        bClicks := if s.gestureDue then 0 else s.bClicks } := by
  unfold State.timeoutDispatch
  by_cases h : s.gestureDue = true
  · have h' : (decide (0 < s.bClicks.toNat) && s.gapOver) = true := h
    rw [if_pos h', clickDispatch_eq]
    simp [h]
  · have h' : ¬(decide (0 < s.bClicks.toNat) && s.gapOver) = true := h
    rw [if_neg h']
    simp [h]

theorem powerToggle_eq (s : State) :
    powerToggle s =
      { s with powerOn := !s.powerOn, history := s.history ++ [.session (if s.powerOn then .stop else .start)] } := by
  cases h : s.powerOn <;> simp [powerToggle, State.emit, h]

/-! ## Encoder -/

/-- A poll of a running encoder as one record update (43_encoder.md R186). -/
theorem pollEncoder_eq (a b : Bool) (s : State) :
    s.pollEncoder a b =
      if a = s.encPrevA then s
      else
        { s with
          vol := s.edgeVol a b
          encVol := s.edgeVol a b
          encLastEdge := s.timeMs
          encPrevA := a
          notifyArmed := false
          history := s.history ++ if s.notifyArmed then [.notify ((s.edgeVol a b).setWidth 8)] else [] } := by
  unfold State.pollEncoder
  by_cases h : a = s.encPrevA
  · subst h; simp
  · rw [if_neg h, if_pos (by simpa using h)]
    rfl

/-- The volume an edge sets, as integer arithmetic (43_encoder.md R183 to R185). -/
theorem edgeVol_toNat (a b : Bool) (s : State) :
    (s.edgeVol a b).toNat =
      if b ≠ a then min 127 (s.encVol.toNat + encStep (s.timeMs - s.encLastEdge))
      else s.encVol.toNat - encStep (s.timeMs - s.encLastEdge) := by
  simp only [State.edgeVol, encNext_toNat, encUp, bne_iff_ne]

/-! ## Buffers -/

@[simp] theorem State.with_buf (s : State) (b : Buf) (p : PState) (n i : BitVec 13) (f : F32) (l : BitVec 14) :
    ({ s with pstate := p, pn := n, pidx := i, pvf := f, pwlen := l } : State).buf b = s.buf b := by cases b <;> rfl

/-- A byte after BAND_EVAL (41_band_stage.md R132). -/
theorem State.readByte_writeBands (s : State) (x : F32) (c : Buf) (off : Nat) :
    (s.writeBands x).readByte c off =
      if 2 * s.pidx.toNat ≤ off ∧ off < 2 * s.pidx.toNat + 2 then
        (match c with
         | .inBuf => s.readByte .inBuf off
         | .bassBuf => ((bytesOf [bass16 x s.party])[off - 2 * s.pidx.toNat]?).getD 0
         | .midBuf => ((bytesOf [mid16 x s.lpY s.party])[off - 2 * s.pidx.toNat]?).getD 0)
      else s.readByte c off := by
  unfold State.writeBands
  rw [State.readByte_storeSamples, State.readByte_storeSamples]
  cases c <;> simp

/-- The samples BAND_EVAL leaves at `PIDX` (41_band_stage.md R132). -/
theorem State.readSample_writeBands_bass (s : State) (x : F32) :
    (s.writeBands x).readSample .bassBuf s.pidx.toNat = bass16 x s.party := by
  have h : ∀ off, (s.writeBands x).readByte .bassBuf off =
      (s.storeSamples .bassBuf s.pidx.toNat [bass16 x s.party]).readByte .bassBuf off := fun off =>
    State.readByte_congr (by simp [State.writeBands]) (by simp) off
  unfold State.readSample
  rw [h, h]
  exact State.readSample_storeSamples_self s .bassBuf s.pidx.toNat (bass16 x s.party)

theorem State.readSample_writeBands_mid (s : State) (x : F32) :
    (s.writeBands x).readSample .midBuf s.pidx.toNat = mid16 x s.lpY s.party :=
  State.readSample_storeSamples_self _ .midBuf s.pidx.toNat (mid16 x s.lpY s.party)

/-- The bytes of equal samples. -/
theorem bytesOf_replicate_zero (n : Nat) : bytesOf (List.replicate n 0#16) = List.replicate (2 * n) 0#8 := by
  induction n with
  | zero => rfl
  | succ n ih =>
    have h : 2 * (n + 1) = 2 * n + 1 + 1 := by omega
    rw [List.replicate_succ, bytesOf, ih, h, List.replicate_succ, List.replicate_succ]
    rfl

/-- A byte after an accepted frame (42_pipeline.md R151, 20_memory.md R64). -/
theorem State.readByte_acceptFrame (s : State) (len : BitVec 24) (c : Buf) (off : Nat) :
    (s.acceptFrame len).readByte c off =
      if c = .inBuf ∧ off < 2 * (s.dataPort.length / 2) then (s.dataPort[off]?).getD 0 else s.readByte c off := by
  have h : (s.acceptFrame len).readByte c off = (s.storeSamples .inBuf 0 (samplesOf s.dataPort)).readByte c off :=
    State.readByte_congr (State.acceptFrame_buf s len c)
      ((State.acceptFrame_freeBuf s len).trans (State.storeSamples_freeBuf s _ _ _).symm) off
  rw [h, State.readByte_storeSamples, samplesOf_length]
  by_cases hc : c = .inBuf ∧ off < 2 * (s.dataPort.length / 2)
  · rw [if_pos (by simpa using hc), if_pos hc, Nat.mul_zero, Nat.sub_zero, bytesOf_samplesOf_getElem? _ _ hc.2]
  · rw [if_neg (by simpa using hc), if_neg hc]

/-- A byte after both working buffers were zeroed up to sample `n`. -/
theorem State.readByte_zeroBoth (s : State) (n : Nat) (c : Buf) (off : Nat) :
    ((s.storeSamples .bassBuf 0 (List.replicate n 0#16)).storeSamples .midBuf 0 (List.replicate n 0#16)).readByte c off =
      if c ≠ .inBuf ∧ off < 2 * n then 0#8 else s.readByte c off := by
  rw [State.readByte_storeSamples, State.readByte_storeSamples, bytesOf_replicate_zero, List.length_replicate]
  cases c
  · simp
  all_goals
    by_cases ho : off < 2 * n
    · simp [ho]
    · simp [ho]

/-- A byte after a mute (42_pipeline.md R156). -/
theorem State.readByte_startMute (s : State) (c : Buf) (off : Nat) :
    s.startMute.readByte c off = if c ≠ .inBuf ∧ off < 8192 then 0#8 else s.readByte c off :=
  (State.readByte_congr (State.startMute_buf s c) (by simp) off).trans
    (State.readByte_zeroBoth s Config.capSamples c off)

/-- The bytes of a sink write that all read as zero. -/
theorem State.bytesLE_of_zero {s : State} {b : Buf} {n : Nat} (h : ∀ k, k < 2 * n → s.readByte b k = 0#8) :
    s.bytesLE b n = List.replicate (2 * n) 0#8 := by
  apply List.ext_getElem?
  intro k
  by_cases hk : k < 2 * n
  · rw [State.bytesLE_getElem? s b n k hk, h k hk, List.getElem?_replicate, if_pos hk]
  · rw [List.getElem?_eq_none (by simpa using hk), List.getElem?_eq_none (by simpa using hk)]

/-- The event of a mute: 8192 zero bytes to the bass sink (42_pipeline.md R156). -/
@[simp] theorem State.startMute_history (s : State) :
    s.startMute.history = s.history ++ [.sinkWrite .bass (List.replicate 8192 0#8)] := by
  have h : s.startMute.history = s.history ++ [.sinkWrite .bass (s.startMute.bytesLE .bassBuf 4096)] := by
    have hb : ∀ i, s.startMute.readSample .bassBuf i =
        ((s.storeSamples .bassBuf 0 (List.replicate Config.capSamples 0#16)).storeSamples .midBuf 0
          (List.replicate Config.capSamples 0#16)).readSample .bassBuf i := by
      intro i
      unfold State.readSample
      rw [State.readByte_congr (State.startMute_buf s .bassBuf) (by simp),
        State.readByte_congr (State.startMute_buf s .bassBuf) (by simp)]
    unfold State.bytesLE
    rw [funext hb]
    unfold State.startMute
    rw [State.emit_history]
    simp only [State.storeSamples_history]
    rfl
  rw [h, State.bytesLE_of_zero]
  intro k hk
  rw [State.readByte_startMute, if_pos ⟨by decide, by omega⟩]

@[simp] theorem State.startMute_pstate (s : State) : s.startMute.pstate = .wrBass := rfl

@[simp] theorem State.startMute_pwlen (s : State) : s.startMute.pwlen = 8192#14 := rfl

/-! ## The legal values of `PIDX`, `PN` and `PWLEN` -/

theorem State.legalIndex_iff (s : State) :
    s.legalIndex = true ↔ s.pidx.toNat < s.pn.toNat ∧ s.pn.toNat ≤ 4096 := by
  unfold State.legalIndex
  rw [Bool.and_eq_true, decide_eq_true_iff, decide_eq_true_iff]
  rfl

theorem legalPwlen_iff (n : Nat) : legalPwlen n = true ↔ n % 2 = 0 ∧ 2 ≤ n ∧ n ≤ 8192 := by
  unfold legalPwlen
  rw [Bool.and_eq_true, Bool.and_eq_true, decide_eq_true_iff, decide_eq_true_iff, beq_iff_eq, and_assoc]
  rfl

/-! ## Instructions where they are enabled, each as one equation -/

theorem execFrame_dropped {len : BitVec 24} {s : State} (hp : s.pstate = .idle) (h : 8192 < len.toNat) :
    execFrame len s = .next s := by
  unfold execFrame
  rw [hp]
  exact if_pos h

theorem execFrame_empty {len : BitVec 24} {s : State} (hp : s.pstate = .idle) (h : len.toNat < 2) :
    execFrame len s = .next s := by
  have hn : frameSamples len = len.toNat / 2 := Nat.shiftRight_one _
  have h0 : frameSamples len = 0 := by omega
  have h1 : ¬Config.capBytes < len.toNat := by unfold Config.capBytes; omega
  unfold execFrame
  rw [hp]
  exact (if_neg h1).trans (if_pos h0)

theorem execFrame_accepted {len : BitVec 24} {s : State} (hp : s.pstate = .idle) (h2 : 2 ≤ len.toNat)
    (h : len.toNat ≤ 8192) (hd : s.dataPort.length = len.toNat) : execFrame len s = .next (s.acceptFrame len) := by
  have hn : frameSamples len = len.toNat / 2 := Nat.shiftRight_one _
  have h0 : frameSamples len ≠ 0 := by omega
  have h1 : ¬Config.capBytes < len.toNat := by unfold Config.capBytes; omega
  unfold execFrame
  rw [hp]
  exact (if_neg h1).trans ((if_neg h0).trans (if_pos hd))

theorem execFrame_mismatch {len : BitVec 24} {s : State} (hp : s.pstate = .idle) (h2 : 2 ≤ len.toNat)
    (h : len.toNat ≤ 8192) (hd : s.dataPort.length ≠ len.toNat) : execFrame len s = .refused .frameDataMismatch := by
  have hn : frameSamples len = len.toNat / 2 := Nat.shiftRight_one _
  have h0 : frameSamples len ≠ 0 := by omega
  have h1 : ¬Config.capBytes < len.toNat := by unfold Config.capBytes; omega
  unfold execFrame
  rw [hp]
  exact (if_neg h1).trans ((if_neg h0).trans (if_neg hd))

theorem execFrame_busy {len : BitVec 24} {s : State} (hp : s.pstate ≠ .idle) : execFrame len s = .next (s.holdFrame len) := by
  unfold execFrame
  cases h : s.pstate
  · exact absurd h hp
  all_goals rfl

theorem execMute_idle {s : State} (hp : s.pstate = .idle) : execMute s = .next s.startMute := by
  unfold execMute; rw [hp]

theorem execMute_busy {s : State} (hp : s.pstate ≠ .idle) : execMute s = .next s.holdMute := by
  unfold execMute
  cases h : s.pstate
  · exact absurd h hp
  all_goals rfl

theorem execBassAck_enabled {s : State} (hp : s.pstate = .wrBass) (hl : legalPwlen s.pwlen.toNat = true) :
    execBassAck s = .next s.offerMid := by
  unfold execBassAck
  rw [hp]
  exact if_pos hl

theorem execMidAck_enabled {s : State} (hp : s.pstate = .wrMid) : execMidAck s = .next { s with pstate := .idle } := by
  unfold execMidAck; rw [hp]

theorem execSampleStep_enabled {s : State} (hp : s.pstate = .compute) (hl : s.legalIndex = true) :
    execSampleStep s = .next s.computeSample := by
  unfold execSampleStep
  rw [hp]
  exact if_pos hl

theorem execSampleStep_waits {s : State} (hp : s.pstate ≠ .compute) : execSampleStep s = .next s := by
  unfold execSampleStep
  cases h : s.pstate
  case compute => exact absurd h hp
  all_goals rfl

theorem execBtnPoll_idle {l : Bool} {s : State} (h : s.bstate = .idle) : execBtnPoll l s = .next (s.pollIdle l) := by
  unfold execBtnPoll; rw [h]

theorem execBtnPoll_pressed {l : Bool} {s : State} (h : s.bstate = .pressed) :
    execBtnPoll l s = .next (s.pollPressed l) := by
  unfold execBtnPoll; rw [h]

theorem execBtnPoll_await {l : Bool} {s : State} (h : s.bstate = .awaitRelease) :
    execBtnPoll l s = .next (s.pollAwait l) := by
  unfold execBtnPoll; rw [h]

/-! ## Instructions, each once -/

/-- FRAME's cases (42_pipeline.md R151). -/
theorem execFrame_cases {len : BitVec 24} {s t : State} (h : execFrame len s = .next t) :
    (s.pstate = .idle ∧ (8192 < len.toNat ∨ len.toNat / 2 = 0) ∧ t = s) ∨
    (s.pstate = .idle ∧ len.toNat ≤ 8192 ∧ 1 ≤ len.toNat / 2 ∧ s.dataPort.length = len.toNat ∧ t = s.acceptFrame len) ∨
    (s.pstate ≠ .idle ∧ t = s.holdFrame len) := by
  unfold execFrame at h
  have hn : frameSamples len = len.toNat / 2 := Nat.shiftRight_one _
  cases hp : s.pstate <;> rw [hp] at h <;> simp only [hn, Config.capBytes] at h
  · split at h
    · next h1 => injection h with h; exact .inl ⟨rfl, .inl h1, h.symm⟩
    · split at h
      · next h1 h2 => injection h with h; exact .inl ⟨rfl, .inr h2, h.symm⟩
      · split at h
        · next h1 h2 h3 =>
          injection h with h
          exact .inr (.inl ⟨rfl, by omega, by omega, h3, h.symm⟩)
        · cases h
  all_goals injection h with h; exact .inr (.inr ⟨by simp, h.symm⟩)

theorem execMute_cases {s t : State} (h : execMute s = .next t) :
    (s.pstate = .idle ∧ t = s.startMute) ∨ (s.pstate ≠ .idle ∧ t = s.holdMute) := by
  unfold execMute at h
  cases hp : s.pstate <;> rw [hp] at h <;> injection h with h
  · exact .inl ⟨rfl, h.symm⟩
  all_goals exact .inr ⟨by simp, h.symm⟩

theorem execBassAck_cases {s t : State} (h : execBassAck s = .next t) :
    s.pstate = .wrBass ∧ legalPwlen s.pwlen.toNat = true ∧ t = s.offerMid := by
  unfold execBassAck at h
  cases hp : s.pstate <;> rw [hp] at h
  case wrBass =>
    simp only at h
    split at h
    · next hl => injection h with h; exact ⟨rfl, hl, h.symm⟩
    · cases h
  all_goals cases h

theorem execMidAck_cases {s t : State} (h : execMidAck s = .next t) :
    s.pstate = .wrMid ∧ t = { s with pstate := .idle } := by
  unfold execMidAck at h
  cases hp : s.pstate <;> rw [hp] at h
  case wrMid => injection h with h; exact ⟨rfl, h.symm⟩
  all_goals cases h

theorem execSampleStep_cases {s t : State} (h : execSampleStep s = .next t) :
    (s.pstate = .compute ∧ s.legalIndex = true ∧ t = s.computeSample) ∨ (s.pstate ≠ .compute ∧ t = s) := by
  unfold execSampleStep at h
  cases hp : s.pstate <;> rw [hp] at h
  case compute =>
    simp only at h
    split at h
    · next hl => injection h with h; exact .inl ⟨rfl, hl, h.symm⟩
    · cases h
  all_goals injection h with h; exact .inr ⟨by simp, h.symm⟩

theorem execBtnPoll_cases {l : Bool} {s t : State} (h : execBtnPoll l s = .next t) :
    (s.bstate = .idle ∧ t = s.pollIdle l) ∨ (s.bstate = .pressed ∧ t = s.pollPressed l) ∨
    (s.bstate = .awaitRelease ∧ t = s.pollAwait l) := by
  unfold execBtnPoll at h
  cases hp : s.bstate <;> rw [hp] at h
  case idle => injection h with h; exact .inl ⟨rfl, h.symm⟩
  case pressed => injection h with h; exact .inr (.inl ⟨rfl, h.symm⟩)
  case awaitRelease => injection h with h; exact .inr (.inr ⟨rfl, h.symm⟩)
  case reserved => cases h

theorem execBandEval_cases {x : F32} {s t : State} (h : execBandEval x s = .next t) :
    s.pidx.toNat < 4096 ∧ t = s.writeBands x := by
  unfold execBandEval at h
  by_cases hl : s.pidx.toNat < Config.capSamples
  · rw [if_pos hl] at h; injection h with h; exact ⟨hl, h.symm⟩
  · rw [if_neg hl] at h; cases h

/-- SAMPLE_STEP where it is taken: the pieces of its next state (42_pipeline.md R153). -/
theorem computeSample_last {s : State} (h : s.pidx.toNat + 1 = s.pn.toNat) :
    s.computeSample =
      { ((s.clockFilter s.sampleInput).writeBands s.sampleInput) with
        pidx := s.pidx + 1#13
        pwlen := BitVec.ofNat 14 (2 * s.pn.toNat)
        pstate := .wrBass
        history := s.history ++
          [.sinkWrite .bass (((s.clockFilter s.sampleInput).writeBands s.sampleInput).bytesLE .bassBuf s.pn.toNat)] } := by
  have hlt := s.pn.isLt
  have he : s.pidx + 1#13 = s.pn := by
    apply BitVec.eq_of_toNat_eq
    simp only [BitVec.toNat_add, BitVec.toNat_ofNat]
    omega
  unfold State.computeSample
  generalize hu : (s.clockFilter s.sampleInput).writeBands s.sampleInput = u
  have h1 : u.pidx = s.pidx := by simp [← hu]
  have h2 : u.pn = s.pn := by simp [← hu]
  have h3 : u.history = s.history := by simp [← hu]
  rw [← h1, ← h2] at he
  rw [← h1, ← h2, ← h3]
  unfold State.advance
  rw [if_pos he]
  rfl

theorem computeSample_more {s : State} (h : s.pidx.toNat + 1 ≠ s.pn.toNat) (hb : s.pidx.toNat < 4096) :
    s.computeSample = { ((s.clockFilter s.sampleInput).writeBands s.sampleInput) with pidx := s.pidx + 1#13 } := by
  have he : s.pidx + 1#13 ≠ s.pn := by
    intro he
    apply h
    rw [← he]
    simp only [BitVec.toNat_add, BitVec.toNat_ofNat]
    omega
  unfold State.computeSample
  generalize hu : (s.clockFilter s.sampleInput).writeBands s.sampleInput = u
  have h1 : u.pidx = s.pidx := by simp [← hu]
  have h2 : u.pn = s.pn := by simp [← hu]
  rw [← h1, ← h2] at he
  rw [← h1]
  unfold State.advance
  rw [if_neg he]

/-- A byte after SAMPLE_STEP is one after its BAND_EVAL (42_pipeline.md R153). -/
theorem State.readByte_computeSample (s : State) (c : Buf) (off : Nat) :
    s.computeSample.readByte c off = ((s.clockFilter s.sampleInput).writeBands s.sampleInput).readByte c off := by
  refine State.readByte_congr (State.computeSample_buf s c) ?_ off
  rw [State.computeSample_freeBuf, State.writeBands_freeBuf, State.clockFilter_freeBuf]

/-- The samples SAMPLE_STEP leaves at the old `PIDX` (42_pipeline.md R153, 41_band_stage.md R132). -/
theorem State.readSample_computeSample_bass (s : State) :
    s.computeSample.readSample .bassBuf s.pidx.toNat = bass16 s.sampleInput s.party := by
  have h := State.readSample_writeBands_bass (s.clockFilter s.sampleInput) s.sampleInput
  rw [State.clockFilter_pidx, State.clockFilter_party] at h
  rw [← h]
  unfold State.readSample
  rw [State.readByte_computeSample, State.readByte_computeSample]

theorem State.readSample_computeSample_mid (s : State) :
    s.computeSample.readSample .midBuf s.pidx.toNat =
      mid16 s.sampleInput (filterNext s.sampleInput s.lpY) s.party := by
  have h := State.readSample_writeBands_mid (s.clockFilter s.sampleInput) s.sampleInput
  rw [State.clockFilter_pidx, State.clockFilter_party, State.clockFilter_lpY] at h
  rw [← h]
  unfold State.readSample
  rw [State.readByte_computeSample, State.readByte_computeSample]

/-- SAMPLE_STEP leaves every byte but the two at the old `PIDX` of the two working buffers. -/
theorem State.readByte_computeSample_of_ne (s : State) (c : Buf) (off : Nat)
    (h : c = .inBuf ∨ off < 2 * s.pidx.toNat ∨ 2 * s.pidx.toNat + 2 ≤ off) :
    s.computeSample.readByte c off = s.readByte c off := by
  rw [State.readByte_computeSample, State.readByte_writeBands, State.clockFilter_pidx]
  have hc : ∀ c', (s.clockFilter s.sampleInput).readByte c' off = s.readByte c' off := fun c' =>
    State.readByte_congr (State.clockFilter_buf s _ c') (State.clockFilter_freeBuf s _) off
  split
  · next hin =>
    rcases h with rfl | h
    · exact hc .inBuf
    · omega
  · exact hc c

/-! ## Steps -/

/-- Every step that gives a next state either runs a decoded operation on the state the schedule prepared, or changes
nothing but what the schedule prepared. -/
theorem step_cases {s t : State} (h : step s = .next t) :
    (∃ sig i, (fetch s).1 = some sig ∧ decode sig = .ok i ∧ exec i (fetch s).2 = .next t) ∨
    ((fetch s).1 = none ∨ (∃ sig, (fetch s).1 = some sig ∧ decode sig = .error .inactive)) ∧ t = (fetch s).2 := by
  unfold step at h
  rcases hf : fetch s with ⟨_ | sig, s'⟩
  · rw [hf] at h
    injection h with h
    exact .inr ⟨.inl rfl, h.symm⟩
  · rw [hf] at h
    simp only [runSignal] at h
    cases hd : decode sig with
    | ok i => rw [hd] at h; exact .inl ⟨sig, i, rfl, hd, h⟩
    | error r =>
      rw [hd] at h
      cases r
      case inactive => injection h with h; exact .inr ⟨.inr ⟨sig, rfl, hd⟩, h.symm⟩
      all_goals cases h

/-- A word that is no FRAME behind a kept one, at an idle P, is the next signal, with its bytes on the port. -/
theorem issueWord_free {w : Word} {data : List Byte} {s : State}
    (h : ∀ len, decodeWord w = .ok (.frame len) → s.pstate = .idle → s.heldFrames = []) :
    issueWord w data s = (some (.opw w), { s with dataPort := data }) := by
  unfold issueWord
  split
  · next hw hp hh => rw [h _ hw hp] at hh; cases hh
  · rfl

/-- A FRAME behind a kept one, at an idle P: the oldest is served and the new one is kept last. -/
theorem issueWord_behind {w : Word} {data : List Byte} {s : State} {len : BitVec 24} {c : FrameCall} {cs : List FrameCall}
    (hw : decodeWord w = .ok (.frame len)) (hp : s.pstate = .idle) (hh : s.heldFrames = c :: cs) :
    issueWord w data s =
      (some (encode (.frame c.len)), { s with heldFrames := cs ++ [⟨len, data⟩], dataPort := c.data }) := by
  simp only [issueWord, serveFrame, hw, hp, hh, List.cons_append]

/-- What the schedule prepares: the agenda, the ports and the choice counter, and nothing else. -/
theorem fetch_eq (s : State) :
    ∃ ag dp hf hm fp, (fetch s).2 =
      { s with agenda := ag, dataPort := dp, heldFrames := hf, heldMutes := hm, freePick := fp } := by
  have hServeF : ∀ u : State, ∃ dp hf, (serveFrame u).2 = { u with dataPort := dp, heldFrames := hf } := by
    intro u
    unfold serveFrame
    split
    · exact ⟨_, _, rfl⟩
    · exact ⟨u.dataPort, u.heldFrames, rfl⟩
  have hServeM : ∀ u : State, ∃ hm, (serveMute u).2 = { u with heldMutes := hm } := by
    intro u
    unfold serveMute
    split
    · exact ⟨_, rfl⟩
    · exact ⟨u.heldMutes, rfl⟩
  have hIssue : ∀ (w : Word) (data : List Byte) (u : State), ∃ dp hf,
      (issueWord w data u).2 = { u with dataPort := dp, heldFrames := hf } := by
    intro w data u
    unfold issueWord
    split
    · obtain ⟨dp, hf, h⟩ := hServeF { u with heldFrames := u.heldFrames ++ [⟨‹BitVec 24›, data⟩] }
      exact ⟨dp, hf, h⟩
    · exact ⟨data, u.heldFrames, rfl⟩
  have id_ok : ∃ ag dp hf hm fp, s =
      { s with agenda := ag, dataPort := dp, heldFrames := hf, heldMutes := hm, freePick := fp } :=
    ⟨s.agenda, s.dataPort, s.heldFrames, s.heldMutes, s.freePick, rfl⟩
  unfold fetch
  split
  · unfold autonomous
    split
    · exact id_ok
    · obtain ⟨dp, hf, h⟩ := hServeF s
      rw [h]; exact ⟨_, dp, hf, _, _, rfl⟩
    · obtain ⟨hm, h⟩ := hServeM s
      rw [h]; exact ⟨_, _, _, hm, _, rfl⟩
    · split
      · obtain ⟨dp, hf, h⟩ := hServeF { s with freePick := s.freePick + 1 }
        rw [h]; exact ⟨_, dp, hf, _, _, rfl⟩
      · obtain ⟨hm, h⟩ := hServeM { s with freePick := s.freePick + 1 }
        rw [h]; exact ⟨_, _, _, hm, _, rfl⟩
    · exact id_ok
  · obtain ⟨dp, hf, h⟩ := hIssue _ _ { s with agenda := ‹List Event› }
    rw [h]; exact ⟨_, dp, hf, _, _, rfl⟩
  · exact ⟨_, _, _, _, _, rfl⟩
  · exact ⟨_, _, _, _, _, rfl⟩
  · obtain ⟨dp, hf, h⟩ := hServeF { s with agenda := ‹List Event› }
    rw [h]; exact ⟨_, dp, hf, _, _, rfl⟩
  · obtain ⟨hm, h⟩ := hServeM { s with agenda := ‹List Event› }
    rw [h]; exact ⟨_, _, _, hm, _, rfl⟩

end Sys2Proof.Machine
end

