-- ==== Sys2Proof/Laws/PerInstr.lean ====
section
/-! SUPPORT. A statement about the encoding of every instruction, one lemma per constructor. -/

namespace Sys2Proof

/-- Masking an operation word masks its two fields. -/
theorem opWord_and (op op' : BitVec 8) (arg arg' : BitVec 24) :
    opWord op arg &&& opWord op' arg' = opWord (op &&& op') (arg &&& arg') := by
  apply BitVec.eq_of_getLsbD_eq
  intro i hi
  unfold opWord
  rw [BitVec.getLsbD_and, BitVec.getLsbD_append, BitVec.getLsbD_append, BitVec.getLsbD_append]
  split
  · rw [BitVec.getLsbD_and]
  · rw [BitVec.getLsbD_and]

/-- A word with the operation code and the masked operand of a row fits the row. -/
theorem OpRow.fits_opWord {r : OpRow} {op : BitVec 8} {arg m v : BitVec 24} (hm : r.mask = opWord 0xFF#8 m)
    (hv : r.value = opWord op v) (ha : arg &&& m = v) : r.fits (opWord op arg) = true := by
  unfold OpRow.fits
  have h : op &&& 0xFF#8 = op := BitVec.and_allOnes
  rw [hm, hv, opWord_and, h, ha]
  exact beq_self_eq_true _

end Sys2Proof

namespace Sys2Proof.Laws.RowMatch

/-- An instruction that has an operation word has the word of a row of the operation map with its own mnemonic
(30_encoding.md R92, R105). -/
def Statement (i : Instr) : Prop :=
  ∀ w, encode i = .opw w → ∃ r ∈ opcodeMap, r.mnemonic = i.mnemonic ∧ r.fits w = true

theorem frame (len : BitVec 24) : Statement (.frame len) := by
  rintro _ ⟨⟩
  exact ⟨⟨"FRAME", 0x10000000#32, 0xFF000000#32⟩, by decide, rfl, OpRow.fits_opWord (m := 0#24) (v := 0#24) rfl rfl BitVec.and_zero⟩

theorem mute : Statement .mute := by
  rintro _ ⟨⟩
  exact ⟨⟨"MUTE", 0x11000000#32, 0xFFFFFFFF#32⟩, by decide, rfl, by decide⟩

theorem bassAck : Statement .bassAck := by
  rintro _ ⟨⟩
  exact ⟨⟨"BASS_ACK", 0x12000000#32, 0xFFFFFFFF#32⟩, by decide, rfl, by decide⟩

theorem midAck : Statement .midAck := by
  rintro _ ⟨⟩
  exact ⟨⟨"MID_ACK", 0x13000000#32, 0xFFFFFFFF#32⟩, by decide, rfl, by decide⟩

theorem lpfClear : Statement .lpfClear := by
  rintro _ ⟨⟩
  exact ⟨⟨"LPF_CLEAR", 0x14000000#32, 0xFFFFFFFF#32⟩, by decide, rfl, by decide⟩

theorem encStart (a : Bool) : Statement (.encStart a) := by
  rintro _ ⟨⟩
  exact ⟨⟨"ENC_START", 0x20000000#32, 0xFFFFFFFE#32⟩, by decide, rfl, by cases a <;> decide⟩

theorem encStop : Statement .encStop := by
  rintro _ ⟨⟩
  exact ⟨⟨"ENC_STOP", 0x21000000#32, 0xFFFFFFFF#32⟩, by decide, rfl, by decide⟩

theorem encPoll (a b : Bool) : Statement (.encPoll a b) := by
  rintro _ ⟨⟩
  exact ⟨⟨"ENC_POLL", 0x22000000#32, 0xFFFFFFFC#32⟩, by decide, rfl, by cases a <;> cases b <;> decide⟩

theorem btnPoll (l : Bool) : Statement (.btnPoll l) := by
  rintro _ ⟨⟩
  exact ⟨⟨"BTN_POLL", 0x30000000#32, 0xFFFFFFFE#32⟩, by decide, rfl, by cases l <;> decide⟩

theorem volSetAbs (v : BitVec 16) : Statement (.volSetAbs v) := by
  rintro _ ⟨⟩
  refine ⟨⟨"VOL_SET_ABS", 0x40000000#32, 0xFFFF0000#32⟩, by decide, rfl,
    OpRow.fits_opWord (m := 0xFF#8 ++ 0#16) (v := 0#24) rfl rfl ?_⟩
  apply BitVec.eq_of_getLsbD_eq
  intro i hi
  rw [BitVec.getLsbD_and, BitVec.getLsbD_append, BitVec.getLsbD_append]
  by_cases h : i < 16
  · simp [h]
  · simp [h]

theorem notifyArm : Statement .notifyArm := by
  rintro _ ⟨⟩
  exact ⟨⟨"NOTIFY_ARM", 0x41000000#32, 0xFFFFFFFF#32⟩, by decide, rfl, by decide⟩

theorem playStatus (p : Bool) : Statement (.playStatus p) := by
  rintro _ ⟨⟩
  exact ⟨⟨"PLAY_STATUS", 0x42000000#32, 0xFFFFFFFE#32⟩, by decide, rfl, by cases p <;> decide⟩

theorem tickMs (d : BitVec 24) : Statement (.tickMs d) := by
  rintro _ ⟨⟩
  exact ⟨⟨"TICK_MS", 0x50000000#32, 0xFF000000#32⟩, by decide, rfl, OpRow.fits_opWord (m := 0#24) (v := 0#24) rfl rfl BitVec.and_zero⟩

theorem reset (a0 : Bool) : Statement (.reset a0) := fun _ h => Signal.noConfusion h

theorem c1Hold : Statement .c1Hold := fun _ h => Signal.noConfusion h

theorem c1Step (x : F32) : Statement (.c1Step x) := fun _ h => Signal.noConfusion h

theorem c1Clear : Statement .c1Clear := fun _ h => Signal.noConfusion h

theorem bandEval (x : F32) : Statement (.bandEval x) := fun _ h => Signal.noConfusion h

theorem sampleStep : Statement .sampleStep := fun _ h => Signal.noConfusion h

end Sys2Proof.Laws.RowMatch
end

