-- ==== Sys2Proof/Tests/Slice0.lean ====
section
/-! SUPPORT. Tests of the model on small states, with results from 95_test_vectors.md and the rules' own examples; the
well-formedness smoke test; and, for each statement with hypotheses, states and operands that meet them all. -/

namespace Sys2Proof.Tests

open Sys2Proof.Machine

/-! ## Small states -/

/-- The reset state with numbers for the open parameters. -/
def base : State := { State.reset with vol := 127, encVol := 100, powerOn := true, encPrevA := false }

/-- After the FRAME of 42_pipeline.md R151's example: the samples 1000 and -1000. -/
def computing : State :=
  { base with
    pstate := .compute, pn := 2, pidx := 0, pvf := 0x3F800000#32
    inBuf := [(0, 0xE8#8), (1, 0x03#8), (2, 0x18#8), (3, 0xFC#8)] }

/-- After the first SAMPLE_STEP of 42_pipeline.md R153's example. -/
def lastSample : State :=
  { computing with
    pidx := 1, lpY := 0x42200000#32, bassBuf := [(0, 0x2C#8), (1, 0x01#8)], midBuf := [(0, 0x20#8), (1, 0x01#8)] }

/-- After the second SAMPLE_STEP of that example: P waits for BASS_ACK. -/
def bassWait : State :=
  { lastSample with
    pidx := 2, lpY := 0xBFCCCCE0#32, pwlen := 4, pstate := .wrBass
    bassBuf := [(0, 0x2C#8), (1, 0x01#8), (2, 0xD4#8), (3, 0xFE#8)]
    midBuf := [(0, 0x20#8), (1, 0x01#8), (2, 0xD5#8), (3, 0xFE#8)]
    history := [.sinkWrite .bass [0x2C#8, 0x01#8, 0xD4#8, 0xFE#8]] }

/-- After BASS_ACK: P waits for MID_ACK. -/
def midWait : State :=
  { bassWait with
    pstate := .wrMid
    history := [.sinkWrite .bass [0x2C#8, 0x01#8, 0xD4#8, 0xFE#8], .sinkWrite .mid [0x20#8, 0x01#8, 0xD5#8, 0xFE#8]] }

/-- The outcome is a next state with the property. -/
def nextHas (o : Host.Outcome State Fault Refusal) (p : State → Bool) : Bool :=
  match o with
  | .next t => p t
  | .fault _ => false
  | .refused _ => false

/-- The outcome is this refusal. -/
def refusedBy (o : Host.Outcome State Fault Refusal) (r : Refusal) : Bool :=
  match o with
  | .next _ => false
  | .fault _ => false
  | .refused r' => r' == r

/-! ## Well-formedness -/

theorem test_wellFormed_c1Step_nan : Instr.wellFormed (.c1Step 0x7FC00000#32) = false := by decide
theorem test_wellFormed_c1Step_inf : Instr.wellFormed (.c1Step 0x7F800000#32) = false := by decide
theorem test_wellFormed_bandEval_nan : Instr.wellFormed (.bandEval 0xFFC00000#32) = false := by decide
theorem test_wellFormed_bandEval_ok : Instr.wellFormed (.bandEval 0xC7000000#32) = true := by decide

/-! ## Decoding: a word written out for every constructor, `OP` then `ARG` (30_encoding.md R91, R92, R101 to R104) -/

theorem test_decode_frame : decodeWord (0b00010000#8 ++ 0b000000000010000000000001#24) = .ok (.frame 8193#24) := by decide
theorem test_decode_mute : decodeWord (0b00010001#8 ++ 0b000000000000000000000000#24) = .ok .mute := by decide
theorem test_decode_bassAck : decodeWord (0b00010010#8 ++ 0b000000000000000000000000#24) = .ok .bassAck := by decide
theorem test_decode_midAck : decodeWord (0b00010011#8 ++ 0b000000000000000000000000#24) = .ok .midAck := by decide
theorem test_decode_lpfClear : decodeWord (0b00010100#8 ++ 0b000000000000000000000000#24) = .ok .lpfClear := by decide
theorem test_decode_encStart : decodeWord (0b00100000#8 ++ 0b000000000000000000000001#24) = .ok (.encStart true) := by decide
theorem test_decode_encStop : decodeWord (0b00100001#8 ++ 0b000000000000000000000000#24) = .ok .encStop := by decide
theorem test_decode_encPoll_b : decodeWord (0b00100010#8 ++ 0b000000000000000000000010#24) = .ok (.encPoll false true) := by
  decide
theorem test_decode_encPoll_a : decodeWord (0b00100010#8 ++ 0b000000000000000000000001#24) = .ok (.encPoll true false) := by
  decide
theorem test_decode_btnPoll : decodeWord (0b00110000#8 ++ 0b000000000000000000000001#24) = .ok (.btnPoll true) := by decide
theorem test_decode_volSetAbs : decodeWord (0b01000000#8 ++ 0b000000000000000111110100#24) = .ok (.volSetAbs 500#16) := by
  decide
theorem test_decode_notifyArm : decodeWord (0b01000001#8 ++ 0b000000000000000000000000#24) = .ok .notifyArm := by decide
theorem test_decode_playStatus : decodeWord (0b01000010#8 ++ 0b000000000000000000000001#24) = .ok (.playStatus true) := by
  decide
theorem test_decode_tickMs : decodeWord (0b01010000#8 ++ 0b000000000000000000001010#24) = .ok (.tickMs 10#24) := by decide
theorem test_decode_reset : decode (.resetPin true true) = .ok (.reset true) := by decide
theorem test_decode_c1Hold : decode (.lpfCtl 0b00#2 0x447A0000#32) = .ok .c1Hold := by decide
theorem test_decode_c1Step : decode (.lpfCtl 0b01#2 0x447A0000#32) = .ok (.c1Step 0x447A0000#32) := by decide
theorem test_decode_c1Clear : decode (.lpfCtl 0b10#2 0x447A0000#32) = .ok .c1Clear := by decide
theorem test_decode_lpfCtl_reserved : decode (.lpfCtl 0b11#2 0x447A0000#32) = .error .lpfCtlReserved := by decide
theorem test_decode_bandEval : decode (.bandWe true 0x447A0000#32) = .ok (.bandEval 0x447A0000#32) := by decide
theorem test_decode_sampleStep : decode .selfStep = .ok .sampleStep := by decide

/-- The refused words of 95_test_vectors.md 2.9. -/
theorem test_decode_refused :
    [0x00000000#32, 0x15000000#32, 0xFFFFFFFF#32].map decodeWord = List.replicate 3 (.error .reservedOp) ∧
    [0x11000001#32, 0x20000002#32, 0x22000004#32, 0x40010000#32, 0x42000002#32].map decodeWord =
      List.replicate 5 (.error .reservedArg) := by decide

/-! ## Arithmetic (95_test_vectors.md 2.1, 2.3) -/

theorem test_volFactor :
    [1, 2, 63, 64, 100, 126, 127].map (fun v => volFactor (BitVec.ofNat 7 v)) =
      [0x3BC49BA6#32, 0x3C656042#32, 0x3EFDF3B6#32, 0x3F008312#32, 0x3F49374C#32, 0x3F7DF3B6#32, 0x3F800000#32] := by
  decide +kernel

/-- 40000.0, 32767.0, 300.9, -0.502, -0.0, -299.52, -32768.0, -32768.5, -70000.0. -/
theorem test_narrow16 :
    [0x471C4000#32, 0x46FFFE00#32, 0x43967333#32, 0xBF008312#32, 0x80000000#32, 0xC395C28F#32, 0xC7000000#32, 0xC7000080#32,
      0xC788B800#32].map (fun v => (narrow16 v).toInt) = [32767, 32767, 300, 0, 0, -299, -32768, -32768, -32768] := by
  decide +kernel

/-- 95_test_vectors.md 2.4, last row: s = -1 at volume 0 with LP_Y = 40.0 (log 24). -/
theorem test_volume_zero_carries_the_decay :
    (let x := scaleSample 0xFFFF#16 (volFactor 0)
     let lp := filterNext x 0x42200000#32
     x = 0x80000000#32 ∧ lp = 0x42199999#32 ∧ (bass16 x false).toInt = 0 ∧ (mid16 x lp false).toInt = -11) := by
  decide +kernel

theorem test_oma : fpSub fpOne Config.alpha = Config.oma := by decide +kernel

/-! ## Instructions, each on one step -/

/-- 42_pipeline.md R151's example. -/
theorem test_frame_example :
    nextHas (exec (.frame 4) { base with dataPort := [0xE8#8, 0x03#8, 0x18#8, 0xFC#8] })
      (fun t => (t.readSample .inBuf 0).toInt == 1000 && (t.readSample .inBuf 1).toInt == -1000 && t.pn == 2 &&
        t.pvf == 0x3F800000#32 && t.pstate == .compute) = true := by decide +kernel

/-- 95_test_vectors.md 2.5: LEN = 3 ignores its odd last byte. -/
theorem test_frame_odd :
    nextHas (exec (.frame 3) { base with dataPort := [0xE8#8, 0x03#8, 0x77#8] })
      (fun t => t.pn == 1 && t.inBuf == [(0, 0xE8#8), (1, 0x03#8)]) = true := by decide +kernel

/-- 42_pipeline.md R153's example, first step. -/
theorem test_sampleStep_first :
    nextHas (exec .sampleStep computing)
      (fun t => t.lpY == 0x42200000#32 && t.bassBuf == lastSample.bassBuf && t.midBuf == lastSample.midBuf && t.pidx == 1 &&
        t.history == []) = true := by decide +kernel

/-- 42_pipeline.md R153's example, second step. -/
theorem test_sampleStep_last :
    nextHas (exec .sampleStep lastSample)
      (fun t => t.lpY == 0xBFCCCCE0#32 && t.pwlen == 4 && t.pstate == .wrBass && t.history == bassWait.history) = true := by
  decide +kernel

/-- 42_pipeline.md R154's example. -/
theorem test_bassAck_example :
    nextHas (exec .bassAck bassWait) (fun t => t.pstate == .wrMid && t.history == midWait.history) = true := by decide +kernel

theorem test_bassAck_stray : refusedBy (exec .bassAck base) .strayBassAck = true := by decide

theorem test_midAck_example : nextHas (exec .midAck midWait) (fun t => t.pstate == .idle && t.pwlen == 4) = true := by decide

theorem test_midAck_stray : refusedBy (exec .midAck bassWait) .strayMidAck = true := by decide

/-- 42_pipeline.md R156: 8192 zero bytes, the mid write still to come. -/
theorem test_mute_example :
    nextHas (exec .mute { base with lpY := 0x42200000#32 })
      (fun t => t.pstate == .wrBass && t.pwlen == 8192 && t.lpY == 0x42200000#32 && t.history.length == 1) = true := by
  decide +kernel

/-- 42_pipeline.md R157's example, inside a frame. -/
theorem test_lpfClear_midFrame :
    nextHas (exec .lpfClear lastSample) (fun t => t.lpY == 0#32 && t.pstate == .compute) = true := by decide

/-- 95_test_vectors.md 2.2. -/
theorem test_c1Step_clip :
    nextHas (exec (.c1Step 0x46FFFE00#32) { base with lpY := 0xC7000000#32 }) (fun t => t.lpY == 0xC6EB8533#32) = true := by
  decide +kernel

/-- 95_test_vectors.md 2.2: a subnormal stalls. -/
theorem test_c1Step_stall :
    nextHas (exec (.c1Step 0#32) { base with lpY := 7#32 }) (fun t => t.lpY == 7#32) = true := by decide +kernel

theorem test_c1Clear : nextHas (exec .c1Clear { base with lpY := 0x4479FFEB#32 }) (fun t => t.lpY == 0#32) = true := by decide

theorem test_c1Hold : nextHas (exec .c1Hold lastSample) (fun t => t == lastSample) = true := by decide

/-- 95_test_vectors.md 2.3, gain 0.3. -/
theorem test_bandEval_presetA :
    nextHas (exec (.bandEval 0x447A0000#32) { base with lpY := 0x42200000#32 })
      (fun t => (t.readSample .bassBuf 0).toInt == 300 && (t.readSample .midBuf 0).toInt == 288) = true := by decide +kernel

/-- 95_test_vectors.md 2.3, gain 1.0, clipped, at the last index. -/
theorem test_bandEval_clip :
    nextHas (exec (.bandEval 0x46FFFE00#32) { base with lpY := 0xC7000000#32, party := true, pidx := 4095 })
      (fun t => t.bassBuf == [(8190, 0xFF#8), (8191, 0x7F#8)] && t.midBuf == [(8190, 0xFF#8), (8191, 0x7F#8)]) = true := by
  decide +kernel

/-- 43_encoder.md R181's example. -/
theorem test_encStart_example :
    nextHas (exec (.encStart true) { base with vol := 40, encRun := false, encLastEdge := 7 })
      (fun t => t.encRun && t.encPrevA && t.encLastEdge == 0#32 && t.encVol == 40) = true := by decide

/-- 43_encoder.md R182's example. -/
theorem test_encStop_example :
    nextHas (exec .encStop base) (fun t => !t.encRun && nextHas (exec (.encPoll true false) t) (fun u => u == t)) = true := by
  decide

/-- 43_encoder.md R186's example. -/
theorem test_encPoll_example :
    nextHas (exec (.encPoll true false)
        { base with vol := 100, encLastEdge := 1000#32, timeMs := 1040#32, notifyArmed := true })
      (fun t => t.vol == 105 && t.encVol == 105 && t.encLastEdge == 1040#32 && t.encPrevA && !t.notifyArmed &&
        t.history == [.notify 105#8]) = true := by decide

/-- 95_test_vectors.md 2.6: a wrapped time difference. -/
theorem test_encPoll_wrap :
    nextHas (exec (.encPoll true true) { base with encVol := 10, encLastEdge := 0xFFFFFFF0#32, timeMs := 0x10#32 })
      (fun t => t.vol == 5) = true := by decide

/-- 44_button.md R201's example. -/
theorem test_btnPoll_next :
    nextHas (exec (.btnPoll true) { base with bClicks := 2, bLastClick := 1000#32, bPressStart := 1000#32, timeMs := 1410#32 })
      (fun t => t.bClicks == 0 && t.history == [.cmd .next .press, .cmd .next .release]) = true := by decide

/-- 95_test_vectors.md 2.7: the first millisecond past the hold threshold. -/
theorem test_btnPoll_long :
    nextHas (exec (.btnPoll false)
        { base with bstate := .pressed, bClicks := 1, bLastClick := 100#32, bPressStart := 100#32, timeMs := 3101#32 })
      (fun t => t.bstate == .awaitRelease && !t.powerOn && t.history == [.session .stop]) = true := by decide

/-- 45_shared_ports.md R231's examples. -/
theorem test_volSetAbs_saturates :
    nextHas (exec (.volSetAbs 500#16) base) (fun t => t.vol == 127 && t.encVol == 100 && t.history == []) = true := by decide

theorem test_volSetAbs_plain : nextHas (exec (.volSetAbs 64#16) base) (fun t => t.vol == 64) = true := by decide

theorem test_notifyArm : nextHas (exec .notifyArm base) (fun t => t.notifyArmed) = true := by decide

theorem test_playStatus : nextHas (exec (.playStatus true) base) (fun t => t.isPlaying) = true := by decide

/-- 45_shared_ports.md R234's example. -/
theorem test_tickMs_wraps :
    nextHas (exec (.tickMs 20#24) { base with timeMs := 0xFFFFFFF6#32 }) (fun t => t.timeMs == 10#32) = true := by decide

/-- 70_reset_and_hazards.md R280's example, while P waits for a sink. -/
theorem test_reset_example :
    nextHas (exec (.reset true) bassWait)
      (fun t => t.encPrevA && t.encRun && t.pstate == .idle && t.pwlen == 0 && t.history == bassWait.history) = true := by
  decide

/-- The command bytes of 95_test_vectors.md 1.3. -/
theorem test_cmdByte :
    [CmdCode.play, .pause, .next, .prev].map (fun c => (cmdByte c .press, cmdByte c .release)) =
      [(0x01#8, 0x09#8), (0x02#8, 0x0A#8), (0x03#8, 0x0B#8), (0x04#8, 0x0C#8)] := by decide

/-- Assembler lines and their words (30_encoding.md R105, R106). -/
theorem test_assemble :
    [assembleLine "ENC_POLL 1, 0 ; edge", assembleLine "TICK_MS 0x10", assembleLine "FRAMES 1000, -1000",
      assembleLine "PRESS", assembleLine "VOL_SET_ABS 65536"] =
    [.ok [.issue 0x22000001#32 []], .ok [.issue 0x50000010#32 []],
      .ok [.issue 0x10000004#32 [0xE8#8, 0x03#8, 0x18#8, 0xFC#8]], .ok [.issue 0x30000000#32 []], .error .doesNotFit] := by
  decide +kernel

theorem test_disassemble :
    [disassemble 0x22000002#32 [], disassemble 0x10000002#32 [0xE8#8, 0x03#8], disassemble 0x11000001#32 []] =
      ["ENC_POLL 0, 1", "FRAME 2, [232, 3]", ".word 0x11000001 ; refused"] := by decide +kernel

/-! ## Witnesses: for each statement with hypotheses, states and operands that meet them, clause by clause -/

theorem witness_DecodedWordEncodesBack : decodeWord 0x10FFFFFF#32 = .ok (.frame 0xFFFFFF#24) := by decide

theorem witness_LegalWordMatchesExactlyOneRow :
    (∃ i, decodeWord 0x22000003#32 = .ok i) ∧
    ∃ r ∈ opcodeMap, r.mnemonic = "ENC_POLL" ∧ r.fits 0x22000003#32 = true :=
  ⟨⟨.encPoll true true, by decide⟩, ⟨"ENC_POLL", 0x22000000#32, 0xFFFFFFFC#32⟩, by decide, by decide, by decide⟩

/-- Both ends of reserved ranges, and a legal `OP` with one reserved bit. -/
theorem witness_ReservedWordIsRefused :
    ({ base with agenda := [.issue 0x11000001#32 []] } : State).agenda = .issue 0x11000001#32 [] :: [] ∧
    [0x0F#8, 0x15#8, 0x1F#8, 0x23#8, 0x51#8, 0xFF#8].map (fun op => isReservedOp op.toNat) = List.replicate 6 true ∧
    isReservedOp (opField 0x11000001#32).toNat = false ∧ ∀ r ∈ opcodeMap, r.fits 0x11000001#32 = false := by decide

/-- A FRAME behind a kept one waits for it (70_reset_and_hazards.md R285): the kept one, of 2 bytes, runs. -/
def frameBehind : State :=
  { base with heldFrames := [⟨2, [0xE8#8, 0x03#8]⟩], agenda := [.issue 0x10000004#32 [1#8, 2#8, 3#8, 4#8]] }

theorem test_frame_behind_a_kept_one :
    nextHas (step frameBehind) (fun t => t.pn == 1 && (t.readSample .inBuf 0).toInt == 1000 && t.pstate == .compute &&
      t.heldFrames == [⟨4, [1#8, 2#8, 3#8, 4#8]⟩] && t.agenda == []) = true := by decide +kernel

theorem witness_AssemblerTakesOperandsThatFit :
    decodeWord 0x40000001#32 = .ok (.volSetAbs 1#16) ∧ 2 ^ 24 ≤ 2 ^ 24 ∧ 2 ^ 16 ≤ 2 ^ 16 ∧ 2 ≤ 2 := by decide

theorem witness_StepRunsTheIssuedOperation :
    decodeWord 0x10000002#32 = .ok (.frame 2#24) ∧
    ({ base with agenda := [.issue 0x10000002#32 [1#8, 2#8]] } : State).agenda = .issue 0x10000002#32 [1#8, 2#8] :: [] ∧
    base.heldFrames = [] ∧
    (decodeWord 0x10000004#32 = .ok (.frame 4#24) ∧ frameBehind.pstate = .idle ∧
      frameBehind.agenda = .issue 0x10000004#32 [1#8, 2#8, 3#8, 4#8] :: [] ∧
      frameBehind.heldFrames = ⟨2, [0xE8#8, 0x03#8]⟩ :: []) ∧
    nextHas (step (base.withFetchWord 32 0x10000002)) (fun t => t.pstate == .compute && t.pn == 1) = true := by decide +kernel

theorem witness_StepWithoutAWord :
    ({ computing with agenda := [.pSelf] } : State).agenda = .pSelf :: [] ∧
    ({ base with agenda := [.resetPulse true] } : State).agenda = .resetPulse true :: [] ∧
    (computing.agenda = [] ∧ computing.pstate = .compute) ∧
    (bassWait.agenda = [] ∧ bassWait.pstate = .wrBass) ∧ (midWait.agenda = [] ∧ midWait.pstate = .wrMid) ∧
    (base.agenda = [] ∧ base.pstate = .idle ∧ base.heldFrames = [] ∧ base.heldMutes = 0) := by decide

theorem witness_KeptWordIsServedWhenIdle :
    base.agenda = [] ∧ base.pstate = .idle ∧
    (({ base with heldFrames := [⟨0, []⟩] } : State).heldFrames = ⟨0, []⟩ :: [] ∧
      ({ base with heldFrames := [⟨0, []⟩] } : State).heldMutes = 0) ∧
    ({ base with heldMutes := 1 } : State).heldMutes = 0 + 1 ∧
    ({ base with heldFrames := [⟨0, []⟩], heldMutes := 1 } : State).heldMutes = 0 + 1 ∧
    (let s : State := { base with agenda := [.resumeFrame], heldFrames := [⟨0, []⟩] }
     s.agenda = .resumeFrame :: [] ∧ s.pstate = .idle ∧ s.heldFrames = ⟨0, []⟩ :: []) ∧
    (let s : State := { bassWait with agenda := [.resumeFrame], heldFrames := [⟨0, []⟩] }
     s.agenda = .resumeFrame :: [] ∧ s.pstate ≠ .idle) ∧
    (let s : State := { base with agenda := [.resumeMute], heldMutes := 1 }
     s.agenda = .resumeMute :: [] ∧ s.pstate = .idle ∧ s.heldMutes = 0 + 1) ∧
    (let s : State := { bassWait with agenda := [.resumeMute], heldMutes := 1 }
     s.agenda = .resumeMute :: [] ∧ s.pstate ≠ .idle) := by decide

/-- 2^24 and its negative; the largest finite value plus 1.0, and less it; a subnormal; an overflow; and an exact zero. -/
theorem witness_AddAndSubRoundToNearestEven :
    fpIsFinite 0x7F7FFFFF#32 = true ∧ fpIsFinite 0x3F800000#32 = true ∧ fpIsFinite 1#32 = true ∧
    (fpVal 0x7F7FFFFF#32 + fpVal 0x3F800000#32).natAbs < overflowMag ∧
    (fpVal 1#32 - fpVal 0x7F7FFFFF#32).natAbs < overflowMag ∧ (-16777216 : Int).natAbs ≤ 2 ^ 24 ∧
    overflowMag ≤ (fpVal 0x7F7FFFFF#32 + fpVal 0x7F7FFFFF#32).natAbs ∧ fpIsFinite 0xFF7FFFFF#32 = true ∧
    overflowMag ≤ (fpVal 0xFF7FFFFF#32 - fpVal 0x7F7FFFFF#32).natAbs ∧ fpIsFinite 0x80000000#32 = true ∧
    fpVal 0x80000000#32 + fpVal 0x80000000#32 = 0 ∧ fpVal 1#32 - fpVal 1#32 = 0 := by decide +kernel

theorem witness_MulRoundsToNearestEven :
    fpIsFinite 0x7F7FFFFF#32 = true ∧ fpIsFinite 0xBF800000#32 = true ∧
    (fpVal 0x7F7FFFFF#32 * fpVal 0xBF800000#32).natAbs < overflowMag * 2 ^ 149 ∧
    overflowMag * 2 ^ 149 ≤ (fpVal 0x7F7FFFFF#32 * fpVal 0x7F7FFFFF#32).natAbs := by decide +kernel

theorem witness_DivRoundsToNearestEven :
    fpIsFinite 0x00000001#32 = true ∧ fpIsFinite 0xC3FA0000#32 = true ∧ fpVal 0xC3FA0000#32 ≠ 0 ∧
    (fpVal 0x00000001#32).natAbs * 2 ^ 149 < overflowMag * (fpVal 0xC3FA0000#32).natAbs ∧
    (fpIsFinite 0x7F7FFFFF#32 = true ∧ overflowMag * (fpVal 1#32).natAbs ≤ (fpVal 0x7F7FFFFF#32).natAbs * 2 ^ 149) ∧
    (fpIsFinite 0x80000000#32 = true ∧ fpVal 0x80000000#32 = 0 ∧ fpVal 0xC3FA0000#32 ≠ 0) := by decide +kernel

theorem witness_NarrowingClipsThenTruncates :
    fpIsNaN 0x7F800000#32 = false ∧ fpIsNaN 0xC7000000#32 = false ∧ fpIsNaN 0x80000000#32 = false := by decide

/-- Both zeros over a clear accumulator, 32768.0 in both operands, and the largest finite accumulator. -/
theorem witness_FilterStepWritesTheAccumulator :
    base.lpY = 0#32 ∧ fpMag 0xC7000000#32 ≤ 2 ^ 164 ∧ fpIsFinite 0x47000000#32 = true ∧
    fpMag ({ base with lpY := 0x47000000#32 } : State).lpY ≤ 2 ^ 164 ∧
    fpIsFinite ({ base with lpY := 0x7F7FFFFF#32 } : State).lpY = true ∧ lpfCtlDriven (.c1Step 0#32) base = 1#2 := by
  decide +kernel

theorem witness_EveryOtherStepHoldsTheAccumulator :
    nextHas (exec (.frame 9000) { base with lpY := 0x42200000#32 }) (fun t => t.lpY == 0x42200000#32) = true := by decide

theorem witness_FilterControlDeterminesTheAccumulator :
    nextHas (exec .sampleStep computing) (fun _ => lpfCtlDriven .sampleStep computing == 1#2) = true ∧
    nextHas (exec .lpfClear computing) (fun _ => lpfCtlDriven .lpfClear computing == 2#2) = true ∧
    nextHas (exec .encStop computing) (fun _ => lpfCtlDriven .encStop computing == 0#2) = true ∧
    computing.pstate = .compute ∧ lpfCtlDriven (.reset true) computing ≠ 0#2 := by decide +kernel

theorem witness_BandEvalWritesBothBands :
    base.pidx.toNat < 4096 ∧ ({ base with pidx := 4095 } : State).pidx.toNat < 4096 ∧
    bandWeDriven (.bandEval 0#32) base = true ∧ bandWeDriven .sampleStep computing = true := by decide

theorem witness_SampleStepComputesOneSample :
    (computing.pstate = .compute ∧ computing.pidx.toNat < computing.pn.toNat ∧ computing.pn.toNat ≤ 4096 ∧
      computing.pidx.toNat + 1 < computing.pn.toNat) ∧
    (lastSample.pstate = .compute ∧ lastSample.pidx.toNat < lastSample.pn.toNat ∧ lastSample.pn.toNat ≤ 4096 ∧
      lastSample.pidx.toNat + 1 = lastSample.pn.toNat) ∧
    (({ computing with pidx := 4095, pn := 4096 } : State).pidx.toNat < 4096 ∧
      ({ computing with pidx := 4095, pn := 4096 } : State).pn.toNat ≤ 4096) := by decide

/-- The hypotheses of BassBandIgnoresTheFilter are those of SAMPLE_STEP, with any other filter value. -/
theorem witness_BassBandIgnoresTheFilter :
    lastSample.pstate = .compute ∧ lastSample.pidx.toNat < lastSample.pn.toNat ∧ lastSample.pn.toNat ≤ 4096 ∧
      lastSample.lpY ≠ 0#32 := by decide

/-- LEN = 2 and LEN = 8192, the ends of the accepted range. -/
theorem witness_AcceptedFrameIsLatched :
    (base.pstate = .idle ∧ 2 ≤ (2#24).toNat ∧ (2#24).toNat ≤ 8192 ∧
      ({ base with dataPort := [1#8, 2#8] } : State).dataPort.length = (2#24).toNat) ∧
    (2 ≤ (8192#24).toNat ∧ (8192#24).toNat ≤ 8192 ∧
      ({ base with dataPort := List.replicate 8192 0#8 } : State).dataPort.length = (8192#24).toNat) :=
  ⟨by decide, by decide, by decide, List.length_replicate⟩

theorem witness_DroppedOrEmptyFrameHasNoEffect :
    base.pstate = .idle ∧ 8192 < (8193#24).toNat ∧ (1#24).toNat < 2 := by decide

theorem witness_IllegalFieldIsRefused :
    (({ computing with pidx := 2 } : State).pstate = .compute ∧
      ({ computing with pidx := 2 } : State).pn.toNat ≤ ({ computing with pidx := 2 } : State).pidx.toNat) ∧
    4096 < ({ computing with pn := 4097 } : State).pn.toNat ∧ 4096 ≤ ({ base with pidx := 4096 } : State).pidx.toNat ∧
    (({ bassWait with pwlen := 3 } : State).pstate = .wrBass ∧ ({ bassWait with pwlen := 3 } : State).pwlen.toNat % 2 = 1) ∧
    ({ bassWait with pwlen := 0 } : State).pwlen.toNat = 0 ∧ 8192 < ({ bassWait with pwlen := 8194 } : State).pwlen.toNat ∧
    ({ base with bstate := .reserved } : State).bstate = .reserved ∧
    (base.pstate = .idle ∧ 2 ≤ (2#24).toNat ∧ (2#24).toNat ≤ 8192 ∧ base.dataPort.length ≠ (2#24).toNat) := by decide

/-- Both ends of the range of `PWLEN`. -/
theorem witness_BassAckOffersTheMidBuffer :
    (({ bassWait with pwlen := 2 } : State).pstate = .wrBass ∧ ({ bassWait with pwlen := 2 } : State).pwlen.toNat % 2 = 0 ∧
      2 ≤ ({ bassWait with pwlen := 2 } : State).pwlen.toNat) ∧
    (({ bassWait with pwlen := 8192 } : State).pwlen.toNat % 2 = 0 ∧
      ({ bassWait with pwlen := 8192 } : State).pwlen.toNat ≤ 8192) ∧ midWait.pstate ≠ .wrBass := by decide

theorem witness_MidAckReturnsToIdle : midWait.pstate = .wrMid ∧ base.pstate ≠ .wrMid := by decide

theorem witness_MuteZeroesBothBuffers : base.pstate = .idle := by decide

theorem witness_SequencerTransitions :
    nextHas (exec .midAck midWait) (fun t => t.pstate == pstateAfter .midAck midWait) = true ∧ computing.pstate ≠ .idle ∧
    computing.pstate ≠ .wrBass ∧ computing.pstate ≠ .wrMid ∧ midWait.pstate ≠ .compute := by decide

theorem witness_SinkWaitEndsOnlyByItsAcknowledgement :
    (nextHas (step { bassWait with agenda := [.issue 0x14000000#32 []] }) (fun t => t.pstate == .wrBass) = true ∧
      ({ bassWait with agenda := [.issue 0x14000000#32 []] } : State).resetNext = false) ∧
    (nextHas (step { midWait with agenda := [.pSelf] }) (fun t => t.pstate == .wrMid) = true ∧
      ({ midWait with agenda := [.pSelf] } : State).resetNext = false) ∧
    (∀ data rest, ({ bassWait with agenda := [.issue 0x14000000#32 []] } : State).agenda ≠ .issue 0x12000000#32 data :: rest) ∧
    (∀ data rest, ({ midWait with agenda := [.pSelf] } : State).agenda ≠ .issue 0x13000000#32 data :: rest) :=
  ⟨by decide, by decide, fun _ _ h => by simp at h, fun _ _ h => by simp at h⟩

theorem witness_IssuedFrameDeliversItsBands :
    decodeWord 0x10000002#32 = .ok (.frame 2#24) ∧ 2 ≤ (2#24).toNat ∧ (2#24).toNat ≤ 8192 ∧
    [1#8, 2#8].length = (2#24).toNat ∧
    (let s : State := { base with agenda := [.issue 0x10000002#32 [1#8, 2#8], .pSelf, .issue 0x12000000#32 [], .issue 0x13000000#32 []] }
     s.pstate = .idle ∧ s.heldFrames = [] ∧
     s.agenda = .issue 0x10000002#32 [1#8, 2#8] ::
      (List.replicate ((2#24).toNat / 2) .pSelf ++ .issue 0x12000000#32 [] :: .issue 0x13000000#32 [] :: [])) := by decide

theorem witness_ComputingFinishesUnaided :
    computing.pstate = .compute ∧ computing.pidx.toNat < computing.pn.toNat ∧ computing.pn.toNat ≤ 4096 ∧
      computing.agenda = [] := by decide

theorem witness_SessionBeginSilencesBothSinks :
    Pseudo.sessionBegin.expand =
      some [.issue 0x14000000#32 [], .issue 0x11000000#32 [], .issue 0x12000000#32 [], .issue 0x13000000#32 []] ∧
    (let s : State := { base with agenda := [.issue 0x14000000#32 [], .issue 0x11000000#32 [], .issue 0x12000000#32 [],
      .issue 0x13000000#32 []] }
     s.pstate = .idle ∧ s.agenda = [.issue 0x14000000#32 [], .issue 0x11000000#32 [], .issue 0x12000000#32 [],
      .issue 0x13000000#32 []] ++ []) := by decide

theorem witness_EncPollFollowsLineA :
    ({ base with encRun := false } : State).encRun = false ∧ (base.encPrevA = false ∧ base.encRun = true ∧ true ≠ base.encPrevA) :=
  by decide

/-- One value on each side of each bound. -/
theorem witness_EncoderUpdateSaturates :
    127 < (123#7).toNat + 5 ∧ (122#7).toNat + 5 ≤ 127 ∧ (4#7).toNat < 5 ∧ 5 ≤ (5#7).toNat := by decide

theorem witness_EncStopClearsTheRunFlag : ({ base with encRun := false } : State).encRun = false := by decide

theorem witness_RepeatedStepsReachTheBound : 127 ≤ (List.replicate 127 0#32).length := by
  rw [List.length_replicate]

theorem witness_RemoteVolumeIsOverwrittenByTheNextEdge : base.encRun = true ∧ true ≠ base.encPrevA := by decide

/-- The first millisecond past the gap, for each count that a clause names. -/
theorem witness_PendingGestureIsDispatchedByCount :
    ∀ c ∈ [1#8, 2#8, 3#8, 4#8, 5#8, 255#8],
      ({ base with bClicks := c, timeMs := 401#32 } : State).bstate = .idle ∧
      0 < ({ base with bClicks := c, timeMs := 401#32 } : State).bClicks.toNat ∧
      400 < (({ base with bClicks := c, timeMs := 401#32 } : State).timeMs -
        ({ base with bClicks := c, timeMs := 401#32 } : State).bLastClick).toNat := by decide

theorem witness_DispatchComesBeforeTheNewPress :
    ({ base with bClicks := 2, timeMs := 401#32 } : State).bstate = .idle ∧
    0 < ({ base with bClicks := 2, timeMs := 401#32 } : State).bClicks.toNat ∧
    400 < (({ base with bClicks := 2, timeMs := 401#32 } : State).timeMs - base.bLastClick).toNat := by decide

theorem witness_NewPressCounts :
    (base.bstate = .idle ∧ base.bClicks.toNat = 0) ∧
    (({ base with bClicks := 255, timeMs := 400#32 } : State).timeMs -
      ({ base with bClicks := 255, timeMs := 400#32 } : State).bLastClick).toNat ≤ 400 := by decide

theorem witness_QuietButtonPolls :
    (base.bstate = .idle ∧ base.bClicks.toNat = 0) ∧
    (({ base with bstate := .pressed, timeMs := 3000#32 } : State).bstate = .pressed ∧
      (({ base with bstate := .pressed, timeMs := 3000#32 } : State).timeMs - base.bPressStart).toNat ≤ 3000) ∧
    ({ base with bstate := .awaitRelease } : State).bstate = .awaitRelease := by decide

theorem witness_LongPressTogglesPower :
    nextHas (exec (.tickMs 1#24) { base with bstate := .awaitRelease }) (fun t => t.bstate == .awaitRelease) = true ∧
    ({ base with bstate := .pressed, timeMs := 3001#32 } : State).bstate = .pressed ∧
    3000 < (({ base with bstate := .pressed, timeMs := 3001#32 } : State).timeMs - base.bPressStart).toNat := by decide

theorem witness_ReleaseReturnsToIdle :
    ({ base with bstate := .pressed } : State).bstate = .pressed ∧
    ({ base with bstate := .awaitRelease } : State).bstate = .awaitRelease := by decide

/-- Held for 10000 ms: one session event. -/
theorem witness_HeldPressGivesOneSessionEvent :
    ({ base with bstate := .pressed } : State).bstate = .pressed ∧
    nextHas (holdButton [3000#24, 1#24, 6999#24] { base with bstate := .pressed })
      (fun t => t.bstate == .awaitRelease && t.history == [.session .stop]) = true ∧
    (1 < 3 ∧ 3000 < (timeAfter ([3000#24, 1#24, 6999#24].take (1 + 1)) base.timeMs - base.bPressStart).toNat) := by decide

/-- A step for each flag that changes it. -/
theorem witness_FlagsHaveTheirWriters :
    nextHas (exec (.btnPoll true) { base with bClicks := 4, timeMs := 401#32 }) (fun t => t.party != base.party) = true ∧
    nextHas (exec (.btnPoll false) { base with bstate := .pressed, timeMs := 3001#32 }) (fun t => t.powerOn != base.powerOn) =
      true ∧
    nextHas (exec (.btnPoll true) { base with bClicks := 1, timeMs := 401#32 }) (fun t => t.isPlaying != base.isPlaying) = true ∧
    nextHas (exec .notifyArm base) (fun t => t.notifyArmed && !base.notifyArmed) = true ∧
    nextHas (exec (.encPoll true false) { base with notifyArmed := true }) (fun t => !t.notifyArmed) = true := by decide

theorem witness_VolumeAndTimeHaveTheirWriters :
    nextHas (exec (.encPoll true false) base) (fun t => t.vol != base.vol && t.encVol != base.encVol) = true ∧
    nextHas (exec (.tickMs 1#24) base) (fun t => t.timeMs != base.timeMs) = true := by decide

theorem witness_HistoryGrowsByTheTableOfEvents :
    nextHas (exec .bassAck bassWait) (fun t => t.history == midWait.history) = true := by decide +kernel

/-- The invariant holds in a state of each `PSTATE`. -/
theorem witness_inv_base : base.Inv := ⟨fun b => by cases b <;> decide, trivial, by decide, by decide, rfl⟩

theorem witness_inv_computing : computing.Inv :=
  ⟨fun b => by cases b <;> decide, ⟨by decide, by decide, by decide, by decide⟩, by decide, by decide, rfl⟩

theorem witness_inv_lastSample : lastSample.Inv :=
  ⟨fun b => by cases b <;> decide, ⟨by decide, by decide, by decide, by decide⟩, by decide, by decide, rfl⟩

theorem witness_inv_bassWait : bassWait.Inv :=
  ⟨fun b => by cases b <;> decide, ⟨by decide, by decide⟩, by decide, by decide, rfl⟩

theorem witness_StepKeepsTheInvariant :
    lastSample.Inv ∧ nextHas (step lastSample) (fun t => t.pstate == .wrBass) = true :=
  ⟨witness_inv_lastSample, by decide +kernel⟩

theorem witness_StepKeepsTheFilterBounded :
    computing.NumericInv ∧ ({ computing with lpY := 0xC7000000#32 } : State).NumericInv ∧
      nextHas (step computing) (fun t => t.pidx == 1) = true :=
  ⟨⟨by decide, by decide +kernel, by decide, by decide +kernel⟩, ⟨by decide, by decide +kernel, by decide, by decide +kernel⟩,
    by decide +kernel⟩

theorem witness_SinkWritesComeInPairs :
    bassWait.handshake ∧ midWait.handshake ∧ bassWait.resetNext = false ∧
      nextHas (step { bassWait with agenda := [.issue 0x12000000#32 []] }) (fun t => t.history == midWait.history) = true :=
  ⟨⟨[], by decide⟩, ⟨[4], by decide⟩, by decide, by decide +kernel⟩

/-- A state that waits for the bass sink, with its acknowledgement next. -/
def bassAckNext : State := { bassWait with agenda := [.issue 0x12000000#32 []] }

theorem witness_inv_bassAckNext : bassAckNext.Inv :=
  ⟨fun b => by cases b <;> decide, ⟨by decide, by decide⟩, by decide, by decide, rfl⟩

/-- Each kind of word that a duty names, where the duty is kept. -/
theorem witness_DutifulStepIsNeverRefused :
    bassAckNext.Inv ∧ bassAckNext.portsInv ∧ bassAckNext.dutiful ∧ dutifulWord midWait 0x13000000#32 [] ∧
      dutifulWord base 0x10000002#32 [1#8, 2#8] ∧ dutifulWord base 0x11000000#32 [] :=
  ⟨witness_inv_bassAckNext, fun _ hc => (List.not_mem_nil hc).elim, rfl, rfl, rfl, trivial⟩

theorem witness_UnspecifiedContentsAreNeverObserved :
    bassAckNext.Inv ∧ nextHas (step bassAckNext) (fun t => t.pstate == .wrMid) = true :=
  ⟨witness_inv_bassAckNext, by decide +kernel⟩

end Sys2Proof.Tests
end

section
/-! SUPPORT. The binary32 operations on finite operands round the exact result once, and the obligations of 00_scope.md R8 and
R10 that say so. -/

namespace Sys2Proof.Machine

/-! ## Zero, exact integers and infinities -/

@[simp] theorem roundMag_zero {d : Nat} (hd : 0 < d) : roundMag 0 d = 0 := by
  simp [roundMag, roundHalfEven, hd]

/-- Twice a significand in a binade is one in the binade below, so every significand up to `2^24` has its bits. -/
theorem exists_magOfBits_eq (e : Nat) {k : Nat} (hk : k ≤ 2 ^ 24) : ∃ m, magOfBits m = k * 2 ^ e := by
  induction e generalizing k with
  | zero => exact ⟨_, magOfBits_grid hk (.inr rfl)⟩
  | succ e ih =>
    rcases Nat.lt_or_ge k (2 ^ 23) with h | h
    · obtain ⟨m, hm⟩ := ih (k := 2 * k) (by omega)
      exact ⟨m, by rw [hm, Nat.pow_succ, Nat.mul_comm 2 k, Nat.mul_assoc, Nat.mul_comm 2]⟩
    · exact ⟨_, magOfBits_grid hk (.inl h)⟩

/-- An integer that fits a significand is far below the overflow threshold. -/
theorem intUnits_lt_overflowMag {k : Nat} (hk : k ≤ 2 ^ 24) : 2 ^ 149 * k < overflowMag * 1 := by
  have h : 2 ^ 149 * 2 ^ 24 < overflowMag * 1 := by decide +kernel
  exact Nat.lt_of_le_of_lt (Nat.mul_le_mul_left _ hk) h

theorem magOfBits_roundMag_int {k : Nat} (hk : k ≤ 2 ^ 24) : magOfBits (roundMag (2 ^ 149 * k) 1) = k * 2 ^ 149 := by
  obtain ⟨m, hm⟩ := exists_magOfBits_eq 149 hk
  have hexact : 2 ^ 149 * k = magOfBits m * 1 := by rw [hm, Nat.mul_one, Nat.mul_comm]
  rw [magOfBits_roundMag_exact Nat.one_pos (intUnits_lt_overflowMag hk) hexact, hm]

theorem fpIsFinite_fpOfInt {n : Int} (hn : n.natAbs ≤ 2 ^ 24) : fpIsFinite (fpOfInt n) = true :=
  fpIsFinite_pack _ (roundMag_lt Nat.one_pos (intUnits_lt_overflowMag hn))

theorem fpVal_fpOfInt {n : Int} (hn : n.natAbs ≤ 2 ^ 24) : fpVal (fpOfInt n) = n * 2 ^ 149 := by
  unfold fpOfInt
  rw [fpVal_pack _ (roundMag_le _ _), magOfBits_roundMag_int hn]
  push_cast
  rcases lt_or_ge n 0 with h | h
  · rw [decide_eq_true h, if_pos rfl, abs_of_neg h, Int.neg_mul, Int.neg_neg]
  · rw [decide_eq_false (Int.not_lt.mpr h), if_neg Bool.false_ne_true, abs_of_nonneg h]

theorem fpIsInf_pack_infBits (neg : Bool) : fpIsInf (fpPack neg infBits) = true := by cases neg <;> decide

theorem toNat_append_eq {m n : Nat} (x : BitVec m) (y : BitVec n) : (x ++ y).toNat = x.toNat * 2 ^ n + y.toNat := by
  rw [BitVec.toNat_append, ← Nat.shiftLeft_add_eq_or_of_lt y.isLt, Nat.shiftLeft_eq]

/-- The fields of a NaN as a number: its sign, the exponent 255, the quiet bit and its payload. -/
theorem toNat_fpNaN (a b : F32) :
    ∃ sign < 2, ∃ payload < 2 ^ 22, (fpNaN a b).toNat = 2 ^ 31 * sign + 2 ^ 23 * 255 + 2 ^ 22 + payload := by
  refine ⟨_, ((Config.nanBits a b).extractLsb' 22 1).isLt, _, ((Config.nanBits a b).extractLsb' 0 22).isLt, ?_⟩
  unfold fpNaN
  simp only [toNat_append_eq, BitVec.toNat_ofNat]
  omega

theorem fpIsNaN_fpNaN (a b : F32) : fpIsNaN (fpNaN a b) = true := by
  obtain ⟨sign, hs, payload, hp, h⟩ := toNat_fpNaN a b
  have hexp : fpExp (fpNaN a b) = 255 := by rw [fpExp_eq]; omega
  have hfrac : fpFrac (fpNaN a b) ≠ 0 := by rw [fpFrac_eq]; omega
  simp [fpIsNaN, hexp, hfrac]

/-! ## Addition and subtraction -/

section Add

variable {a b : F32} (ha : fpIsFinite a = true) (hb : fpIsFinite b = true)

include ha hb

theorem roundsTo_fpAdd (ho : (fpVal a + fpVal b).natAbs < overflowMag) : RoundsTo (fpVal a + fpVal b) 1 (fpAdd a b) := by
  rw [fpAdd_finite ha hb]
  rw [← Nat.mul_one overflowMag] at ho
  generalize fpVal a + fpVal b = v at *
  split
  case isTrue h0 =>
    subst h0
    rw [← roundMag_zero Nat.one_pos]
    exact roundsTo_pack Nat.one_pos (by simp) ho
  case isFalse =>
    refine roundsTo_pack Nat.one_pos ?_ ho
    by_cases h : v < 0
    · rw [decide_eq_true h, if_pos rfl]; omega
    · rw [decide_eq_false h, if_neg Bool.false_ne_true]; omega

theorem fpAdd_of_overflow (ho : overflowMag ≤ (fpVal a + fpVal b).natAbs) :
    fpAdd a b = if fpVal a + fpVal b < 0 then 0xFF800000#32 else 0x7F800000#32 := by
  have hpos : 0 < overflowMag := by decide +kernel
  rw [fpAdd_finite ha hb, if_neg (by omega), roundMag_overflow Nat.one_pos (by rwa [Nat.mul_one])]
  by_cases h : fpVal a + fpVal b < 0
  · rw [decide_eq_true h, if_pos h]; decide
  · rw [decide_eq_false h, if_neg h]; decide

theorem fpSign_fpAdd_of_zero (h0 : fpVal a + fpVal b = 0) : fpSign (fpAdd a b) = (fpSign a && fpSign b) := by
  rw [fpAdd_finite ha hb, if_pos h0, fpSign_pack _ (Nat.zero_le _)]

end Add

/-! ## Multiplication and division -/

theorem fpVal_eq_zero_iff (a : F32) : fpVal a = 0 ↔ fpMag a = 0 := by rw [← Int.natAbs_eq_zero, fpVal_natAbs]

theorem fpVal_mul_fpVal (a b : F32) :
    fpVal a * fpVal b =
      if fpSign a != fpSign b then -((fpMag a * fpMag b : Nat) : Int) else ((fpMag a * fpMag b : Nat) : Int) := by
  unfold fpVal
  cases fpSign a <;> cases fpSign b <;> simp

theorem sign_fpVal {a : F32} (h : fpMag a ≠ 0) : (fpVal a).sign = if fpSign a then -1 else 1 := by
  have hsign : (fpMag a : Int).sign = 1 := Int.sign_eq_one_of_pos (by omega)
  unfold fpVal
  cases fpSign a
  · exact hsign
  · exact (Int.sign_neg _).trans (congrArg _ hsign)

theorem fpDiv_zero {a b : F32} (ha : fpIsFinite a = true) (hb : fpIsFinite b = true) (hb0 : fpMag b = 0) :
    fpDiv a b = if fpMag a = 0 then fpNaN a b else fpPack (fpSign a != fpSign b) infBits := by
  unfold fpDiv
  simp [fpIsNaN_of_finite ha, fpIsNaN_of_finite hb, hb0]

/-- The exact quotient as the divisor's magnitude sees it: the dividend's magnitude with the sign of the quotient. -/
theorem fpVal_mul_sign_fpVal {a b : F32} (h : fpMag b ≠ 0) :
    fpVal a * 2 ^ 149 * (fpVal b).sign =
      if fpSign a != fpSign b then -((2 ^ 149 * fpMag a : Nat) : Int) else ((2 ^ 149 * fpMag a : Nat) : Int) := by
  rw [sign_fpVal h]
  unfold fpVal
  push_cast
  cases fpSign a <;> cases fpSign b <;> simp [Int.mul_comm]

/-! ## The obligations -/

/-- Settles O10: a sum of values is an integer in units of 2^-149, rounded once; a difference is the sum with the negated
term. -/
theorem addAndSubRoundToNearestEven : Obligations.AddAndSubRoundToNearestEven := by
  refine ⟨fun n hn => ⟨fpIsFinite_fpOfInt hn, fpVal_fpOfInt hn⟩, fun a b ha hb => ?_⟩
  have hneg : fpIsFinite (fpNeg b) = true := (fpIsFinite_neg b).trans hb
  have hsub : fpVal a - fpVal b = fpVal a + fpVal (fpNeg b) := by rw [fpVal_neg, Int.sub_eq_add_neg]
  rw [hsub, ← fpSign_neg]
  exact ⟨roundsTo_fpAdd ha hb, fpAdd_of_overflow ha hb, fpSign_fpAdd_of_zero ha hb,
    roundsTo_fpAdd ha hneg, fpAdd_of_overflow ha hneg, fpSign_fpAdd_of_zero ha hneg⟩

/-- Settles O11: the exact product is the product of the magnitudes with the sign of the product. -/
theorem mulRoundsToNearestEven : Obligations.MulRoundsToNearestEven := by
  intro a b ha hb
  have hd : 0 < 2 ^ 149 := Nat.two_pow_pos 149
  have habs : (fpVal a * fpVal b).natAbs = fpMag a * fpMag b := by rw [Int.natAbs_mul, fpVal_natAbs, fpVal_natAbs]
  rw [habs, fpMul_finite ha hb]
  refine ⟨roundsTo_pack hd (fpVal_mul_fpVal a b), fun ho => ?_, fpSign_pack _ (roundMag_le _ _)⟩
  rw [roundMag_overflow hd ho]
  exact fpIsInf_pack_infBits _

/-- Settles O12: by the cases of a nonzero divisor, a zero divisor, and both operands zero. -/
theorem divRoundsToNearestEven : Obligations.DivRoundsToNearestEven := by
  intro a b ha hb
  simp only [fpVal_natAbs, ne_eq, fpVal_eq_zero_iff, Nat.mul_comm (fpMag a)]
  by_cases hb0 : fpMag b = 0
  · rw [fpDiv_zero ha hb hb0]
    refine ⟨fun h => absurd hb0 h, fun _ ha0 => ?_, fun h => ?_, fun _ ha0 => ?_⟩
    · rw [if_neg ha0]
      exact fpIsInf_pack_infBits _
    · rw [if_neg (h.resolve_left (not_not_intro hb0)), fpSign_pack _ (Nat.le_refl _)]
    · rw [if_pos ha0]
      exact fpIsNaN_fpNaN a b
  · rw [fpDiv_finite ha hb hb0]
    refine ⟨fun _ => ⟨roundsTo_pack (Nat.pos_of_ne_zero hb0) (fpVal_mul_sign_fpVal hb0), fun ho => ?_⟩, fun h => absurd h hb0,
      fun _ => fpSign_pack _ (roundMag_le _ _), fun h => absurd h hb0⟩
    rw [roundMag_overflow (Nat.pos_of_ne_zero hb0) ho]
    exact fpIsInf_pack_infBits _

end Sys2Proof.Machine
end

section
/-! SUPPORT. The machine's invariant, one lemma per operation that touches what it speaks of, and the obligation that every
step keeps it. -/

namespace Sys2Proof.Machine

/-! ## The pipeline invariant in each `PSTATE` -/

theorem State.pipelineInv_of_idle {s : State} (hp : s.pstate = .idle) : s.pipelineInv := by
  unfold State.pipelineInv
  rw [hp]
  trivial

theorem State.pipelineInv_iff_of_compute {s : State} (hp : s.pstate = .compute) :
    s.pipelineInv ↔ s.legalIndex = true ∧ Memory.listedTo s.inBuf (2 * s.pn.toNat) ∧
      Memory.listedTo s.bassBuf (2 * s.pidx.toNat) ∧ Memory.listedTo s.midBuf (2 * s.pidx.toNat) := by
  unfold State.pipelineInv
  rw [hp]

theorem State.pipelineInv_iff_of_wrBass {s : State} (hp : s.pstate = .wrBass) :
    s.pipelineInv ↔ legalPwlen s.pwlen.toNat = true ∧ Memory.listedTo s.midBuf s.pwlen.toNat := by
  unfold State.pipelineInv
  rw [hp]

theorem State.pipelineInv_of_wrMid {s : State} (hp : s.pstate = .wrMid) : s.pipelineInv := by
  unfold State.pipelineInv
  rw [hp]
  trivial

/-! ## The buffers that the operations of C2 and C3 leave -/

theorem State.writeBands_bassBuf (s : State) (x : F32) :
    (s.writeBands x).bassBuf = Memory.writeBlock s.bassBuf (2 * s.pidx.toNat) (bytesOf [bass16 x s.party]) := rfl

theorem State.writeBands_midBuf (s : State) (x : F32) :
    (s.writeBands x).midBuf = Memory.writeBlock s.midBuf (2 * s.pidx.toNat) (bytesOf [mid16 x s.lpY s.party]) := rfl

theorem State.acceptFrame_inBuf (s : State) (len : BitVec 24) :
    (s.acceptFrame len).inBuf = Memory.writeBlock s.inBuf 0 (bytesOf (samplesOf s.dataPort)) := rfl

theorem State.startMute_midBuf (s : State) :
    s.startMute.midBuf = Memory.writeBlock s.midBuf 0 (bytesOf (List.replicate Config.capSamples 0#16)) := by
  rw [State.midBuf_eq, State.startMute_buf, State.buf_storeSamples, if_pos rfl, State.buf_storeSamples, if_neg (by decide)]
  rfl

theorem State.acceptFrame_pn_toNat {len : BitVec 24} (s : State) (h : len.toNat ≤ 8192) :
    (s.acceptFrame len).pn.toNat = len.toNat / 2 := by
  have hn : frameSamples len = len.toNat / 2 := Nat.shiftRight_one _
  have hpn : (s.acceptFrame len).pn = BitVec.ofNat 13 (frameSamples len) := rfl
  rw [hpn, hn, BitVec.toNat_ofNat]
  omega

theorem State.buffersWf.zeroed {s : State} (h : s.buffersWf) (b : Buf) :
    (s.storeSamples b 0 (List.replicate Config.capSamples 0#16)).buffersWf :=
  State.buffersWf_storeSamples h (by rw [List.length_replicate]; decide)

/-! ## The invariant under each operation that touches what it speaks of -/

namespace State.Inv

variable {s : State}

theorem acceptFrame (h : s.Inv) {len : BitVec 24} (h1 : 1 ≤ len.toNat / 2) (h2 : len.toNat ≤ 8192)
    (hd : s.dataPort.length = len.toNat) : (s.acceptFrame len).Inv := by
  obtain ⟨hbuf, -, hbtn⟩ := h
  have hpn := s.acceptFrame_pn_toNat h2
  have hfit : 2 * 0 + 2 * (samplesOf s.dataPort).length ≤ 8192 := by rw [samplesOf_length]; omega
  refine ⟨State.buffersWf_congr (s.acceptFrame_buf len) (State.buffersWf_storeSamples hbuf hfit), ?_, hbtn⟩
  refine (State.pipelineInv_iff_of_compute rfl).mpr ⟨?_, ?_, fun _ => nofun, fun _ => nofun⟩
  · have hpidx : (s.acceptFrame len).pidx.toNat = 0 := rfl
    exact (State.legalIndex_iff _).mpr (by omega)
  · rw [State.acceptFrame_inBuf]
    refine Memory.listedTo_writeBlock_extend (fun _ => nofun) ?_
    rw [bytesOf_length, samplesOf_length]
    omega

theorem startMute (h : s.Inv) : s.startMute.Inv := by
  obtain ⟨hbuf, -, hbtn⟩ := h
  refine ⟨State.buffersWf_congr s.startMute_buf ((hbuf.zeroed _).zeroed _),
    (State.pipelineInv_iff_of_wrBass s.startMute_pstate).mpr ?_, hbtn⟩
  rw [State.startMute_pwlen, State.startMute_midBuf]
  refine ⟨(legalPwlen_iff _).mpr (by decide), Memory.listedTo_writeBlock_extend (fun _ => nofun) ?_⟩
  rw [bytesOf_length, List.length_replicate]
  decide

theorem offerMid (h : s.Inv) : s.offerMid.Inv := by
  obtain ⟨hbuf, -, hbtn⟩ := h
  exact ⟨hbuf, State.pipelineInv_of_wrMid rfl, hbtn⟩

theorem clockFilter (h : s.Inv) (x : F32) : (s.clockFilter x).Inv := h

theorem writeBands (h : s.Inv) (x : F32) (hi : s.pidx.toNat < 4096) : (s.writeBands x).Inv := by
  obtain ⟨hbuf, hpipe, hbtn⟩ := h
  have hfit (v : Sample) : 2 * s.pidx.toNat + 2 * [v].length ≤ 8192 := by rw [List.length_singleton]; omega
  refine ⟨State.buffersWf_storeSamples (State.buffersWf_storeSamples hbuf (hfit _)) (hfit _), ?_, hbtn⟩
  cases hp : s.pstate
  case idle => exact State.pipelineInv_of_idle hp
  case compute =>
    obtain ⟨hl, hin, hbass, hmid⟩ := (State.pipelineInv_iff_of_compute hp).mp hpipe
    exact (State.pipelineInv_iff_of_compute (s := s.writeBands x) hp).mpr
      ⟨hl, hin, Memory.listedTo_writeBlock hbass _ _, Memory.listedTo_writeBlock hmid _ _⟩
  case wrBass =>
    obtain ⟨hl, hmid⟩ := (State.pipelineInv_iff_of_wrBass hp).mp hpipe
    exact (State.pipelineInv_iff_of_wrBass (s := s.writeBands x) hp).mpr ⟨hl, Memory.listedTo_writeBlock hmid _ _⟩
  case wrMid => exact State.pipelineInv_of_wrMid hp

/-- BAND_EVAL writes the sample at `PIDX`, so both bands are then written up to the next index; the last sample's offer
finds the whole of them written. -/
theorem computeSample (h : s.Inv) (hp : s.pstate = .compute) : s.computeSample.Inv := by
  have ⟨_, hpipe, _⟩ := h
  obtain ⟨hl, hin, hbass, hmid⟩ := (State.pipelineInv_iff_of_compute hp).mp hpipe
  obtain ⟨hlt, hle⟩ := s.legalIndex_iff.mp hl
  obtain ⟨hbuf, -, hbtn⟩ := (h.clockFilter s.sampleInput).writeBands s.sampleInput
    (by rw [State.clockFilter_pidx]; omega)
  have hbass' : Memory.listedTo ((s.clockFilter s.sampleInput).writeBands s.sampleInput).bassBuf
      (2 * (s.pidx.toNat + 1)) := Memory.listedTo_writeBlock_extend hbass (Nat.le_refl _)
  have hmid' : Memory.listedTo ((s.clockFilter s.sampleInput).writeBands s.sampleInput).midBuf
      (2 * (s.pidx.toNat + 1)) := Memory.listedTo_writeBlock_extend hmid (Nat.le_refl _)
  by_cases hlast : s.pidx.toNat + 1 = s.pn.toNat
  · rw [computeSample_last hlast]
    refine ⟨hbuf, (State.pipelineInv_iff_of_wrBass rfl).mpr ?_, hbtn⟩
    have hlen : (BitVec.ofNat 14 (2 * s.pn.toNat)).toNat = 2 * s.pn.toNat := by rw [BitVec.toNat_ofNat]; omega
    rw [hlen]
    exact ⟨(legalPwlen_iff _).mpr (by omega), hlast ▸ hmid'⟩
  · rw [computeSample_more hlast (by omega)]
    refine ⟨hbuf, (State.pipelineInv_iff_of_compute (by exact hp)).mpr ?_, hbtn⟩
    have hidx : (s.pidx + 1#13).toNat = s.pidx.toNat + 1 := by rw [BitVec.toNat_add, BitVec.toNat_ofNat]; omega
    have hlt' : (s.pidx + 1#13).toNat < s.pn.toNat := by omega
    rw [hidx]
    exact ⟨(State.legalIndex_iff _).mpr ⟨hlt', hle⟩, hin, hbass', hmid'⟩

theorem timeoutDispatch (h : s.Inv) (hb : s.bstate = .idle) : s.timeoutDispatch.Inv := by
  obtain ⟨hbuf, hpipe, hres, -, hpress⟩ := h
  rw [timeoutDispatch_eq]
  exact ⟨hbuf, hpipe, hres, fun hne => absurd hb hne, hpress⟩

theorem newPress (h : s.Inv) : s.newPress.Inv := by
  obtain ⟨hbuf, hpipe, -⟩ := h
  refine ⟨hbuf, hpipe, nofun, fun _ => ?_, rfl⟩
  have hclicks : s.newPress.bClicks = satInc (if s.gapOver then 0 else s.bClicks) := rfl
  rw [hclicks, satInc_toNat]
  omega

theorem pollIdle (h : s.Inv) (l : Bool) (hb : s.bstate = .idle) : (s.pollIdle l).Inv := by
  cases l
  · exact (h.timeoutDispatch hb).newPress
  · exact h.timeoutDispatch hb

theorem pollPressed (h : s.Inv) (l : Bool) (hb : s.bstate = .pressed) : (s.pollPressed l).Inv := by
  obtain ⟨hbuf, hpipe, hres, hclicks, hpress⟩ := h
  unfold State.pollPressed
  split
  · exact ⟨hbuf, hpipe, nofun, fun hne => absurd rfl hne, hpress⟩
  · split
    · rw [powerToggle_eq]
      exact ⟨hbuf, hpipe, nofun, fun _ => hclicks (by simp [hb]), hpress⟩
    · exact ⟨hbuf, hpipe, hres, hclicks, hpress⟩

theorem pollAwait (h : s.Inv) (l : Bool) : (s.pollAwait l).Inv := by
  have ⟨hbuf, hpipe, _, _, hpress⟩ := h
  unfold State.pollAwait
  split
  · exact ⟨hbuf, hpipe, nofun, fun hne => absurd rfl hne, hpress⟩
  · exact h

theorem pollEncoder (h : s.Inv) (a b : Bool) : (s.pollEncoder a b).Inv := by
  rw [pollEncoder_eq]
  split <;> exact h

theorem resetRegisters (s : State) (a0 : Bool) : (s.resetRegisters a0).Inv :=
  ⟨fun b => by cases b <;> exact ⟨List.Pairwise.nil, nofun⟩, State.pipelineInv_of_idle rfl, nofun,
    fun hne => absurd rfl hne, rfl⟩

/-! ## The invariant under instructions and steps -/

theorem execFrame {t : State} {len : BitVec 24} (h : s.Inv) (ht : Machine.execFrame len s = .next t) : t.Inv := by
  obtain ⟨-, -, rfl⟩ | ⟨-, h2, h1, hd, rfl⟩ | ⟨-, rfl⟩ := execFrame_cases ht
  · exact h
  · exact h.acceptFrame h1 h2 hd
  · exact h

theorem execBtnPoll {t : State} {l : Bool} (h : s.Inv) (ht : Machine.execBtnPoll l s = .next t) : t.Inv := by
  obtain ⟨hb, rfl⟩ | ⟨hb, rfl⟩ | ⟨-, rfl⟩ := execBtnPoll_cases ht
  · exact h.pollIdle l hb
  · exact h.pollPressed l hb
  · exact h.pollAwait l

/-- Every instruction keeps the invariant; those that touch nothing it speaks of do so by definition. -/
theorem exec {t : State} {i : Instr} (h : s.Inv) (ht : Machine.exec i s = .next t) : t.Inv := by
  cases i
  case frame len => exact h.execFrame ht
  case mute =>
    obtain ⟨-, rfl⟩ | ⟨-, rfl⟩ := execMute_cases ht
    · exact h.startMute
    · exact h
  case bassAck =>
    obtain ⟨-, -, rfl⟩ := execBassAck_cases ht
    exact h.offerMid
  case midAck =>
    obtain ⟨-, rfl⟩ := execMidAck_cases ht
    obtain ⟨hbuf, -, hbtn⟩ := h
    exact ⟨hbuf, State.pipelineInv_of_idle rfl, hbtn⟩
  case btnPoll l => exact h.execBtnPoll ht
  case bandEval x =>
    obtain ⟨hi, rfl⟩ := execBandEval_cases ht
    exact h.writeBands x hi
  case sampleStep =>
    obtain ⟨hp, -, rfl⟩ | ⟨-, rfl⟩ := execSampleStep_cases ht
    · exact h.computeSample hp
    · exact h
  case reset a0 =>
    injection ht with ht
    exact ht ▸ resetRegisters s a0
  case encPoll a b =>
    injection ht with ht
    rw [← ht]
    split
    · exact h.pollEncoder a b
    · exact h
  all_goals
    injection ht with ht
    exact ht ▸ h

/-- What the schedule prepares is nothing the invariant speaks of. -/
theorem fetch (h : s.Inv) : (Machine.fetch s).2.Inv := by
  obtain ⟨ag, dp, hf, hm, fp, heq⟩ := fetch_eq s
  rw [heq]
  exact h

end State.Inv

/-- Settles O55: by the instruction a step runs, in the state that the schedule prepared. -/
theorem stepKeepsTheInvariant : Obligations.StepKeepsTheInvariant := by
  intro s t h ht
  obtain ⟨sig, i, -, -, hexec⟩ | ⟨-, rfl⟩ := step_cases ht
  · exact h.fetch.exec hexec
  · exact h.fetch

end Sys2Proof.Machine
end

section
/-! SUPPORT. The unspecified contents of the buffers (10_state.md R27, R28): every operation runs alike whatever they are,
since it reads written bytes only; and the obligation that no step lets them be seen. -/

namespace Sys2Proof.Machine

/-- The state with other unspecified contents of the buffers (log 4). -/
def State.withFreeBuf (k : Nat) (s : State) : State := { s with freeBuf := k }

namespace State

variable {s : State} (k : Nat)

/-! ## Reads of written bytes -/

theorem readSample_withFreeBuf {b : Buf} {n i : Nat} (h : Memory.listedTo (s.buf b) (2 * n)) (hi : i < n) :
    (s.withFreeBuf k).readSample b i = s.readSample b i := by
  have hbyte : ∀ off < 2 * n, (s.withFreeBuf k).readByte b off = s.readByte b off := fun off hoff =>
    State.readByte_of_listed (h off hoff) k
  unfold State.readSample
  rw [hbyte _ (by omega), hbyte _ (by omega)]

theorem bytesLE_withFreeBuf {b : Buf} {n : Nat} (h : Memory.listedTo (s.buf b) (2 * n)) :
    (s.withFreeBuf k).bytesLE b n = s.bytesLE b n :=
  congrArg bytesOf (List.map_congr_left fun _ hi => readSample_withFreeBuf k h (List.mem_range.mp hi))

/-! ## The operations that read buffers -/

theorem storeSamples_withFreeBuf (s : State) (b : Buf) (i : Nat) (vs : List Sample) :
    (s.withFreeBuf k).storeSamples b i vs = (s.storeSamples b i vs).withFreeBuf k := by
  cases b <;> rfl

theorem writeBands_withFreeBuf (s : State) (x : F32) :
    (s.withFreeBuf k).writeBands x = (s.writeBands x).withFreeBuf k := rfl

/-- Offering the first `n` samples of the bass buffer, as the last sample of a frame and a mute do (42_pipeline.md R153,
R156). -/
def offerBass (n : Nat) (s : State) : State :=
  { s with pwlen := BitVec.ofNat 14 (2 * n), pstate := .wrBass }.emit [.sinkWrite .bass (s.bytesLE .bassBuf n)]

theorem offerBass_withFreeBuf {n : Nat} (h : Memory.listedTo s.bassBuf (2 * n)) :
    (s.withFreeBuf k).offerBass n = (s.offerBass n).withFreeBuf k :=
  congrArg
    (fun bytes => ({ s with pwlen := BitVec.ofNat 14 (2 * n), pstate := .wrBass, freeBuf := k } : State).emit
      [.sinkWrite .bass bytes])
    (bytesLE_withFreeBuf k (b := .bassBuf) h)

theorem offerMid_withFreeBuf (h : Memory.listedTo s.midBuf (2 * (s.pwlen.toNat / 2))) :
    (s.withFreeBuf k).offerMid = s.offerMid.withFreeBuf k :=
  congrArg (fun bytes => ({ s with pstate := .wrMid, freeBuf := k } : State).emit [.sinkWrite .mid bytes])
    (bytesLE_withFreeBuf k (b := .midBuf) h)

theorem startMute_eq (s : State) :
    s.startMute =
      ((s.storeSamples .bassBuf 0 (List.replicate Config.capSamples 0#16)).storeSamples .midBuf 0
        (List.replicate Config.capSamples 0#16)).offerBass Config.capSamples := rfl

/-- A mute offers bytes that it has just zeroed. -/
theorem startMute_withFreeBuf (s : State) : (s.withFreeBuf k).startMute = s.startMute.withFreeBuf k := by
  rw [startMute_eq, startMute_eq, storeSamples_withFreeBuf, storeSamples_withFreeBuf, offerBass_withFreeBuf]
  rw [State.bassBuf_eq, State.buf_storeSamples, if_neg (by decide), State.buf_storeSamples, if_pos rfl]
  refine Memory.listedTo_writeBlock_extend (fun _ => nofun) ?_
  rw [bytesOf_length, List.length_replicate]
  omega

theorem advance_of_last (h : s.pidx + 1#13 = s.pn) :
    s.advance = ({ s with pidx := s.pidx + 1#13 } : State).offerBass s.pn.toNat := if_pos h

theorem advance_of_more (h : s.pidx + 1#13 ≠ s.pn) : s.advance = { s with pidx := s.pidx + 1#13 } := if_neg h

theorem advance_withFreeBuf (h : s.pidx + 1#13 = s.pn → Memory.listedTo s.bassBuf (2 * s.pn.toNat)) :
    (s.withFreeBuf k).advance = s.advance.withFreeBuf k := by
  by_cases hlast : s.pidx + 1#13 = s.pn
  · rw [advance_of_last hlast, advance_of_last (s := s.withFreeBuf k) hlast]
    exact offerBass_withFreeBuf k (s := { s with pidx := s.pidx + 1#13 }) (h hlast)
  · rw [advance_of_more hlast, advance_of_more (s := s.withFreeBuf k) hlast]
    rfl

/-- SAMPLE_STEP reads the latched frame, and in its last sample the bands of the whole frame. -/
theorem computeSample_withFreeBuf (hp : s.pstate = .compute) (h : s.pipelineInv) :
    (s.withFreeBuf k).computeSample = s.computeSample.withFreeBuf k := by
  obtain ⟨hl, hin, hbass, -⟩ := (State.pipelineInv_iff_of_compute hp).mp h
  obtain ⟨hlt, hle⟩ := s.legalIndex_iff.mp hl
  have hx : (s.withFreeBuf k).sampleInput = s.sampleInput :=
    congrArg (scaleSample · s.pvf) (readSample_withFreeBuf k (b := .inBuf) hin hlt)
  unfold State.computeSample
  rw [hx]
  refine advance_withFreeBuf k (s := (s.clockFilter s.sampleInput).writeBands s.sampleInput) fun hlast => ?_
  refine Memory.listedTo_writeBlock_extend hbass ?_
  have hpn : (s.pidx + 1#13).toNat = s.pn.toNat := congrArg BitVec.toNat hlast
  rw [BitVec.toNat_add, BitVec.toNat_ofNat] at hpn
  rw [bytesOf_length, List.length_singleton, State.clockFilter_pidx, State.writeBands_pn, State.clockFilter_pn]
  omega

/-! ## The operations of B and E -/

theorem timeoutDispatch_withFreeBuf (s : State) : (s.withFreeBuf k).timeoutDispatch = s.timeoutDispatch.withFreeBuf k := by
  rw [timeoutDispatch_eq, timeoutDispatch_eq]
  rfl

theorem pollIdle_withFreeBuf (s : State) (l : Bool) : (s.withFreeBuf k).pollIdle l = (s.pollIdle l).withFreeBuf k := by
  cases l
  · exact congrArg State.newPress (timeoutDispatch_withFreeBuf k s)
  · exact timeoutDispatch_withFreeBuf k s

theorem pollPressed_withFreeBuf (s : State) (l : Bool) :
    (s.withFreeBuf k).pollPressed l = (s.pollPressed l).withFreeBuf k := by
  unfold State.pollPressed
  rw [apply_ite (State.withFreeBuf k), apply_ite (State.withFreeBuf k)]
  rfl

theorem pollAwait_withFreeBuf (s : State) (l : Bool) : (s.withFreeBuf k).pollAwait l = (s.pollAwait l).withFreeBuf k := by
  cases l <;> rfl

theorem pollEncoder_withFreeBuf (s : State) (a b : Bool) :
    (s.withFreeBuf k).pollEncoder a b = (s.pollEncoder a b).withFreeBuf k := by
  rw [pollEncoder_eq, pollEncoder_eq, apply_ite (State.withFreeBuf k)]
  rfl

end State

/-! ## Instructions, the schedule and steps -/

section

variable {s t : State} (k : Nat)

theorem execFrame_withFreeBuf {len : BitVec 24} (ht : execFrame len s = .next t) :
    execFrame len (s.withFreeBuf k) = .next (t.withFreeBuf k) := by
  obtain ⟨hp, hlong | hshort, rfl⟩ | ⟨hp, h2, h1, hd, rfl⟩ | ⟨hp, rfl⟩ := execFrame_cases ht
  · exact execFrame_dropped hp hlong
  · exact execFrame_empty hp (by omega)
  · exact execFrame_accepted (s := s.withFreeBuf k) hp (by omega) h2 hd
  · exact execFrame_busy (s := s.withFreeBuf k) hp

theorem execMute_withFreeBuf (ht : execMute s = .next t) : execMute (s.withFreeBuf k) = .next (t.withFreeBuf k) := by
  obtain ⟨hp, rfl⟩ | ⟨hp, rfl⟩ := execMute_cases ht
  · rw [← State.startMute_withFreeBuf]
    exact execMute_idle hp
  · exact execMute_busy (s := s.withFreeBuf k) hp

theorem execBassAck_withFreeBuf (h : s.pipelineInv) (ht : execBassAck s = .next t) :
    execBassAck (s.withFreeBuf k) = .next (t.withFreeBuf k) := by
  obtain ⟨hp, hl, rfl⟩ := execBassAck_cases ht
  obtain ⟨-, hmid⟩ := (State.pipelineInv_iff_of_wrBass hp).mp h
  rw [← State.offerMid_withFreeBuf k fun a ha => hmid a (by omega)]
  exact execBassAck_enabled hp hl

theorem execBtnPoll_withFreeBuf {l : Bool} (ht : execBtnPoll l s = .next t) :
    execBtnPoll l (s.withFreeBuf k) = .next (t.withFreeBuf k) := by
  obtain ⟨hb, rfl⟩ | ⟨hb, rfl⟩ | ⟨hb, rfl⟩ := execBtnPoll_cases ht
  · rw [← State.pollIdle_withFreeBuf]
    exact execBtnPoll_idle hb
  · rw [← State.pollPressed_withFreeBuf]
    exact execBtnPoll_pressed hb
  · rw [← State.pollAwait_withFreeBuf]
    exact execBtnPoll_await hb

theorem execSampleStep_withFreeBuf (h : s.pipelineInv) (ht : execSampleStep s = .next t) :
    execSampleStep (s.withFreeBuf k) = .next (t.withFreeBuf k) := by
  obtain ⟨hp, hl, rfl⟩ | ⟨hp, rfl⟩ := execSampleStep_cases ht
  · rw [← State.computeSample_withFreeBuf k hp h]
    exact execSampleStep_enabled hp hl
  · exact execSampleStep_waits hp

theorem execEncPoll_withFreeBuf (a b : Bool) (ht : execEncPoll a b s = .next t) :
    execEncPoll a b (s.withFreeBuf k) = .next (t.withFreeBuf k) := by
  injection ht with ht
  rw [← ht, apply_ite (State.withFreeBuf k), ← State.pollEncoder_withFreeBuf]
  rfl

/-- Every instruction runs alike whatever the unspecified contents; RESET moves on to the next ones, and every other one
keeps them. -/
theorem exec_withFreeBuf {i : Instr} (h : s.pipelineInv) (ht : exec i s = .next t) :
    ∃ j, exec i (s.withFreeBuf k) = .next (t.withFreeBuf j) := by
  cases i
  case frame len => exact ⟨k, execFrame_withFreeBuf k ht⟩
  case mute => exact ⟨k, execMute_withFreeBuf k ht⟩
  case bassAck => exact ⟨k, execBassAck_withFreeBuf k h ht⟩
  case midAck =>
    obtain ⟨hp, rfl⟩ := execMidAck_cases ht
    exact ⟨k, execMidAck_enabled (s := s.withFreeBuf k) hp⟩
  case btnPoll l => exact ⟨k, execBtnPoll_withFreeBuf k ht⟩
  case encPoll a b => exact ⟨k, execEncPoll_withFreeBuf k a b ht⟩
  case sampleStep => exact ⟨k, execSampleStep_withFreeBuf k h ht⟩
  case bandEval x =>
    obtain ⟨hi, rfl⟩ := execBandEval_cases ht
    exact ⟨k, if_pos hi⟩
  case reset a0 =>
    injection ht with ht
    exact ⟨k + 1, ht ▸ rfl⟩
  all_goals
    injection ht with ht
    exact ⟨k, ht ▸ rfl⟩

theorem runSignal_withFreeBuf {sig : Signal} (h : s.pipelineInv) (ht : runSignal sig s = .next t) :
    ∃ j, runSignal sig (s.withFreeBuf k) = .next (t.withFreeBuf j) := by
  unfold runSignal at ht ⊢
  cases hd : decode sig with
  | ok i =>
    rw [hd] at ht
    exact exec_withFreeBuf k h ht
  | error r =>
    rw [hd] at ht
    cases r
    case inactive =>
      injection ht with ht
      exact ⟨k, ht ▸ rfl⟩
    all_goals cases ht

end

section

variable (k : Nat) (s : State)

theorem serveFrame_withFreeBuf : serveFrame (s.withFreeBuf k) = (serveFrame s).map id (State.withFreeBuf k) := by
  unfold serveFrame
  dsimp only [State.withFreeBuf]
  split <;> rfl

theorem serveMute_withFreeBuf : serveMute (s.withFreeBuf k) = (serveMute s).map id (State.withFreeBuf k) := by
  unfold serveMute
  dsimp only [State.withFreeBuf]
  split <;> rfl

theorem issueWord_withFreeBuf (w : Word) (data : List Byte) :
    issueWord w data (s.withFreeBuf k) = (issueWord w data s).map id (State.withFreeBuf k) := by
  unfold issueWord
  dsimp only [State.withFreeBuf]
  split
  · exact serveFrame_withFreeBuf k { s with heldFrames := s.heldFrames ++ [⟨_, data⟩] }
  · rfl

theorem autonomous_withFreeBuf : autonomous (s.withFreeBuf k) = (autonomous s).map id (State.withFreeBuf k) := by
  unfold autonomous
  dsimp only [State.withFreeBuf]
  split
  · rfl
  · exact serveFrame_withFreeBuf k s
  · exact serveMute_withFreeBuf k s
  · by_cases hpick : Config.heldPick s.freePick = true
    · rw [if_pos hpick]
      exact (if_pos hpick).trans (serveFrame_withFreeBuf k { s with freePick := s.freePick + 1 })
    · rw [if_neg hpick]
      exact (if_neg hpick).trans (serveMute_withFreeBuf k { s with freePick := s.freePick + 1 })
  · rfl

theorem fetch_withFreeBuf : fetch (s.withFreeBuf k) = (fetch s).map id (State.withFreeBuf k) := by
  unfold fetch
  dsimp only [State.withFreeBuf]
  split
  · exact autonomous_withFreeBuf k s
  · next w data rest _ => exact issueWord_withFreeBuf k { s with agenda := rest } w data
  · rfl
  · rfl
  · next rest _ => exact serveFrame_withFreeBuf k { s with agenda := rest }
  · next rest _ => exact serveMute_withFreeBuf k { s with agenda := rest }

end

/-- Settles O60: the schedule prepares the same signal whatever the unspecified contents, and the invariant has every byte
that the signal's operation reads written. -/
theorem unspecifiedContentsAreNeverObserved : Obligations.UnspecifiedContentsAreNeverObserved := by
  intro s t k h ht
  change ∃ j, step (s.withFreeBuf k) = .next (t.withFreeBuf j)
  obtain ⟨-, hpipe, -⟩ := h.fetch
  unfold step at ht ⊢
  rw [fetch_withFreeBuf]
  rcases hf : fetch s with ⟨_ | sig, s'⟩
  · rw [hf] at ht
    injection ht with ht
    exact ⟨k, ht ▸ rfl⟩
  · rw [hf] at ht hpipe
    exact runSignal_withFreeBuf k hpipe ht

end Sys2Proof.Machine
end

section
/-! SUPPORT. The refusals of values that the machine's invariant and H's duties exclude, and the obligation that lists them
(logs 11 and 15). -/

namespace Sys2Proof.Machine

section

variable {s : State}

theorem execSampleStep_illegal (hp : s.pstate = .compute) (hl : ¬s.legalIndex = true) :
    execSampleStep s = .refused .illegalIndex := by
  unfold execSampleStep
  rw [hp]
  exact if_neg hl

theorem execBandEval_illegal (x : F32) (hi : ¬s.pidx.toNat < 4096) : execBandEval x s = .refused .illegalIndex := if_neg hi

theorem execBassAck_illegal (hp : s.pstate = .wrBass) (hl : ¬legalPwlen s.pwlen.toNat = true) :
    execBassAck s = .refused .illegalPwlen := by
  unfold execBassAck
  rw [hp]
  exact if_neg hl

theorem execBtnPoll_reserved (l : Bool) (hb : s.bstate = .reserved) : execBtnPoll l s = .refused .bstateReserved := by
  unfold execBtnPoll
  rw [hb]

end

/-- Settles O24: each clause is a refusal of the operation that uses the field. -/
theorem illegalFieldIsRefused : Obligations.IllegalFieldIsRefused := by
  intro s
  refine ⟨fun hp hidx => execSampleStep_illegal hp ?_, fun x hi => execBandEval_illegal x (by omega),
    fun hp hlen => execBassAck_illegal hp ?_, fun l => execBtnPoll_reserved l,
    fun len hp h2 h hd => execFrame_mismatch hp h2 h hd⟩
  · rw [State.legalIndex_iff]
    omega
  · rw [legalPwlen_iff]
    omega

end Sys2Proof.Machine
end

section
/-! SUPPORT. An accepted FRAME: the samples it decodes, its frame on registers, ports and buffers, and the obligation that it
latches both with the volume factor (20_memory.md R64, 42_pipeline.md R151). -/

namespace Sys2Proof.Machine

section

variable (s : State) (len : BitVec 24)

/-- A whole sample is the two data bytes at its place, the low one first. -/
theorem State.readSample_acceptFrame {s : State} {i : Nat} {lo hi : Byte} (hlo : s.dataPort[2 * i]? = some lo)
    (hhi : s.dataPort[2 * i + 1]? = some hi) : (s.acceptFrame len).readSample .inBuf i = hi ++ lo := by
  obtain ⟨hlt, -⟩ := List.getElem?_eq_some_iff.mp hhi
  unfold State.readSample
  rw [State.readByte_acceptFrame, State.readByte_acceptFrame, if_pos ⟨rfl, by omega⟩, if_pos ⟨rfl, by omega⟩, hlo, hhi]
  rfl

theorem keepsBytes_acceptFrame_inBuf : KeepsBytes .inBuf 0 (2 * (s.dataPort.length / 2)) s (s.acceptFrame len) := by
  intro off hoff
  rw [State.readByte_acceptFrame]
  exact if_neg (by omega)

theorem keepsBytes_acceptFrame_of_ne {b : Buf} (hb : b ≠ .inBuf) : KeepsBytes b 0 0 s (s.acceptFrame len) := by
  intro off _
  rw [State.readByte_acceptFrame]
  exact if_neg fun h => hb h.1

theorem keepsRegs_acceptFrame : KeepsRegs [.PSTATE, .PN, .PIDX, .PVF] s (s.acceptFrame len) := by
  intro r hr
  cases r
  case PSTATE | PN | PIDX | PVF => simp at hr
  all_goals rfl

theorem keepsPorts_acceptFrame : KeepsPorts s (s.acceptFrame len) := ⟨rfl, rfl, rfl, rfl, rfl, rfl⟩

end

/-- Settles O21: the instruction is enabled and its effect is `acceptFrame`, whose samples and frame the lemmas above give. -/
theorem acceptedFrameIsLatched : Obligations.AcceptedFrameIsLatched := by
  intro s len hp h2 h hd
  refine ⟨s.acceptFrame len, execFrame_accepted hp h2 h hd, fun i hi => ?_, rfl, s.acceptFrame_pn_toNat h, rfl, rfl,
    hd ▸ keepsBytes_acceptFrame_inBuf s len, keepsBytes_acceptFrame_of_ne s len nofun,
    keepsBytes_acceptFrame_of_ne s len nofun, keepsRegs_acceptFrame s len, keepsPorts_acceptFrame s len,
    s.acceptFrame_history len⟩
  have hlo : 2 * i < s.dataPort.length := by omega
  have hhi : 2 * i + 1 < s.dataPort.length := by omega
  exact ⟨_, _, List.getElem?_eq_getElem hlo, List.getElem?_eq_getElem hhi,
    State.readSample_acceptFrame len (List.getElem?_eq_getElem hlo) (List.getElem?_eq_getElem hhi)⟩

end Sys2Proof.Machine
end

section
/-! SUPPORT. The operation word and its encoding (30_encoding.md R90 to R94, R105): operands from the fields of a word and back,
the rows of the operation map as the decoder reads them, and the obligations that say so. -/

namespace Sys2Proof

open Machine

/-! ## Operands put back together from their fields -/

theorem ofBool_getLsbD {n : Nat} (x : BitVec n) (k : Nat) : BitVec.ofBool (x.getLsbD k) = x.extractLsb' k 1 := by
  ext j hj
  obtain rfl : j = 0 := by omega
  simp

theorem bitArg_getLsbD {arg : BitVec 24} (h : arg.extractLsb' 1 23 = 0#23) : bitArg (arg.getLsbD 0) = arg := by
  rw [bitArg, ofBool_getLsbD, ← h]
  exact BitVec.extractLsb'_append_extractLsb'

theorem twoBitArg_getLsbD {arg : BitVec 24} (h : arg.extractLsb' 2 22 = 0#22) :
    0#22 ++ BitVec.ofBool (arg.getLsbD 1) ++ BitVec.ofBool (arg.getLsbD 0) = arg := by
  rw [ofBool_getLsbD, ofBool_getLsbD, ← h, BitVec.extractLsb'_append_extractLsb'_eq_extractLsb' (by rfl)]
  exact BitVec.extractLsb'_append_extractLsb'

theorem wideArg_extractLsb' {arg : BitVec 24} (h : arg.extractLsb' 16 8 = 0#8) : 0#8 ++ arg.extractLsb' 0 16 = arg := by
  rw [← h]
  exact BitVec.extractLsb'_append_extractLsb'

theorem opw_of_fields {w : Word} {op : BitVec 8} {arg : BitVec 24} (hop : opField w = op) (harg : arg = argField w) :
    Signal.opw (opWord op arg) = .opw w := by
  rw [← hop, harg, opWord_fields]

/-! ## Encoding, then decoding -/

@[simp] theorem decode_encode_tickMs (d : BitVec 24) : decode (encode (.tickMs d)) = .ok (.tickMs d) := by
  simp only [encode, decode, decodeWord, opField_opWord, argField_opWord]
  rfl

@[simp] theorem decode_encode_volSetAbs (v : BitVec 16) : decode (encode (.volSetAbs v)) = .ok (.volSetAbs v) := by
  have hhi : (0#8 ++ v).extractLsb' 16 8 = 0#8 := BitVec.extractLsb'_append_eq_left
  have hlo : (0#8 ++ v).extractLsb' 0 16 = v := BitVec.extractLsb'_append_eq_right
  simp only [encode, decode, decodeWord, opField_opWord, argField_opWord, hhi, hlo]
  rfl

/-- Settles O1: wide operands by their fields, one-bit operands by their two values; what is left is a fixed word, or a
signal that carries its operand as it is. -/
theorem encodedInstructionDecodesBack : Obligations.EncodedInstructionDecodesBack := by
  intro i
  cases i
  case frame len => exact decode_encode_frame len
  case volSetAbs v => exact decode_encode_volSetAbs v
  case tickMs d => exact decode_encode_tickMs d
  case encStart a | btnPoll a | playStatus a => cases a <;> rfl
  case encPoll a b => cases a <;> cases b <;> rfl
  all_goals rfl

/-! ## Decoding, then encoding -/

/-- Settles O2: in each case of the decoder the word is its two fields, and the operand is what the reserved bits leave. -/
theorem decodedWordEncodesBack : Obligations.DecodedWordEncodesBack := by
  intro w i h
  obtain ⟨hop, rfl⟩ | ⟨hop, harg, rfl⟩ | ⟨hop, harg, rfl⟩ | ⟨hop, harg, rfl⟩ | ⟨hop, harg, rfl⟩ | ⟨hop, harg, rfl⟩ |
    ⟨hop, harg, rfl⟩ | ⟨hop, harg, rfl⟩ | ⟨hop, harg, rfl⟩ | ⟨hop, harg, rfl⟩ | ⟨hop, harg, rfl⟩ | ⟨hop, harg, rfl⟩ |
    ⟨hop, rfl⟩ := decodeWord_ok h
  · exact ⟨opw_of_fields hop rfl, rfl⟩
  · exact ⟨opw_of_fields hop harg.symm, rfl⟩
  · exact ⟨opw_of_fields hop harg.symm, rfl⟩
  · exact ⟨opw_of_fields hop harg.symm, rfl⟩
  · exact ⟨opw_of_fields hop harg.symm, rfl⟩
  · exact ⟨opw_of_fields hop (bitArg_getLsbD harg), rfl⟩
  · exact ⟨opw_of_fields hop harg.symm, rfl⟩
  · exact ⟨opw_of_fields hop (twoBitArg_getLsbD harg), rfl⟩
  · exact ⟨opw_of_fields hop (bitArg_getLsbD harg), rfl⟩
  · exact ⟨opw_of_fields hop (wideArg_extractLsb' harg), rfl⟩
  · exact ⟨opw_of_fields hop harg.symm, rfl⟩
  · exact ⟨opw_of_fields hop (bitArg_getLsbD harg), rfl⟩
  · exact ⟨opw_of_fields hop rfl, rfl⟩

theorem decodeWord_frame_iff {w : Word} {len : BitVec 24} :
    decodeWord w = .ok (.frame len) ↔ opField w = 0x10#8 ∧ argField w = len := by
  constructor
  · intro h
    have hcases := decodeWord_ok h
    simpa [eq_comm] using hcases
  · rintro ⟨hop, rfl⟩
    exact if_pos hop

/-! ## Rows of the operation map -/

theorem opField_and (w v : Word) : opField (w &&& v) = opField w &&& opField v := BitVec.extractLsb'_and

theorem argField_and (w v : Word) : argField (w &&& v) = argField w &&& argField v := BitVec.extractLsb'_and

theorem word_eq_iff (w v : Word) : w = v ↔ opField w = opField v ∧ argField w = argField v := by
  refine ⟨fun h => h ▸ ⟨rfl, rfl⟩, fun ⟨hop, harg⟩ => ?_⟩
  rw [← opWord_fields w, ← opWord_fields v, hop, harg]

/-- Every row's mask covers the whole of `OP`, and its match value has no operand bit (30_encoding.md R92). -/
theorem opcodeMap_masks : ∀ r ∈ opcodeMap, opField r.mask = 0xFF#8 ∧ argField r.value = 0#24 := by decide

theorem opcodeMap_opField_inj : ∀ r ∈ opcodeMap, ∀ r' ∈ opcodeMap, opField r.value = opField r'.value → r = r' := by
  decide

/-- A word fits a row that has its `OP`, if the operand bits that the row masks are 0. -/
theorem OpRow.fits_iff {r : OpRow} (hr : r ∈ opcodeMap) (w : Word) :
    r.fits w = true ↔ opField w = opField r.value ∧ argField w &&& argField r.mask = 0#24 := by
  obtain ⟨hmask, hvalue⟩ := opcodeMap_masks r hr
  have hall : opField w &&& 0xFF#8 = opField w := BitVec.and_allOnes
  rw [OpRow.fits, beq_iff_eq, word_eq_iff, opField_and, argField_and, hmask, hvalue, hall]

theorem OpRow.eq_of_fits {r r' : OpRow} {w : Word} (hr : r ∈ opcodeMap) (hr' : r' ∈ opcodeMap) (h : r.fits w = true)
    (h' : r'.fits w = true) : r' = r := by
  obtain ⟨hop, -⟩ := (OpRow.fits_iff hr w).mp h
  obtain ⟨hop', -⟩ := (OpRow.fits_iff hr' w).mp h'
  exact opcodeMap_opField_inj r' hr' r hr (hop'.symm.trans hop)

/-- The reserved opcode space is what the rows leave (30_encoding.md R93). -/
theorem isReservedOp_iff (op : BitVec 8) : isReservedOp op.toNat = true ↔ ∀ r ∈ opcodeMap, op ≠ opField r.value := by
  revert op
  decide

theorem exists_row_of_not_reservedOp {op : BitVec 8} (h : ¬isReservedOp op.toNat = true) :
    ∃ r ∈ opcodeMap, op = opField r.value := by
  rw [isReservedOp_iff] at h
  push Not at h
  exact h

/-! ## The decoder by rows -/

/-- The decoder's test of the operand bits above the low `k`, as a mask. -/
theorem extractLsb'_beq_zero_iff_and {n k : Nat} (x : BitVec (n + k)) :
    (x.extractLsb' k n == 0#n) = true ↔ x &&& (BitVec.allOnes n ++ 0#k) = 0#(n + k) := by
  rw [beq_iff_eq]
  constructor
  · intro h
    rw [← BitVec.extractLsb'_append_extractLsb' (x := x), h, BitVec.and_append]
    simp
  · intro h
    have h := congrArg (BitVec.extractLsb' k n) h
    rwa [BitVec.extractLsb'_and, BitVec.extractLsb'_append_eq_left, BitVec.and_allOnes, BitVec.extractLsb'_zero] at h

/-- The decoder's test of the whole operand, as a mask. -/
theorem beq_zero_iff_and (arg : BitVec 24) : (arg == 0#24) = true ↔ arg &&& 0xFFFFFF#24 = 0#24 := by
  have hall : arg &&& 0xFFFFFF#24 = arg := BitVec.and_allOnes
  rw [beq_iff_eq, hall]

/-- A word with the `OP` of a row is read as an operation with the row's mnemonic, if the operand bits that the row masks
are 0. One line per row, in the order of the map. -/
theorem decodeWord_of_row (w : Word) :
    ∀ r ∈ opcodeMap, opField w = opField r.value →
      ∃ zero i, decodeWord w = ifReservedZero zero i ∧ i.mnemonic = r.mnemonic ∧
        (zero = true ↔ argField w &&& argField r.mask = 0#24) := by
  have upper (n k : Nat) := @extractLsb'_beq_zero_iff_and n k
  unfold decodeWord
  simp only [opcodeMap, List.forall_mem_cons, List.not_mem_nil, false_implies, implies_true, and_true]
  refine ⟨?_, ?_, ?_, ?_, ?_, ?_, ?_, ?_, ?_, ?_, ?_, ?_, ?_⟩ <;> intro hop <;> rw [hop]
  · exact ⟨true, _, rfl, rfl, iff_of_true rfl BitVec.and_zero⟩
  · exact ⟨_, _, rfl, rfl, beq_zero_iff_and _⟩
  · exact ⟨_, _, rfl, rfl, beq_zero_iff_and _⟩
  · exact ⟨_, _, rfl, rfl, beq_zero_iff_and _⟩
  · exact ⟨_, _, rfl, rfl, beq_zero_iff_and _⟩
  · exact ⟨_, _, rfl, rfl, upper 23 1 (argField w)⟩
  · exact ⟨_, _, rfl, rfl, beq_zero_iff_and _⟩
  · exact ⟨_, _, rfl, rfl, upper 22 2 (argField w)⟩
  · exact ⟨_, _, rfl, rfl, upper 23 1 (argField w)⟩
  · exact ⟨_, _, rfl, rfl, upper 8 16 (argField w)⟩
  · exact ⟨_, _, rfl, rfl, beq_zero_iff_and _⟩
  · exact ⟨_, _, rfl, rfl, upper 23 1 (argField w)⟩
  · exact ⟨true, _, rfl, rfl, iff_of_true rfl BitVec.and_zero⟩

theorem decodeWord_of_reservedOp {w : Word} (h : isReservedOp (opField w).toNat = true) :
    decodeWord w = .error .reservedOp := by
  have h := (isReservedOp_iff _).mp h
  simp only [opcodeMap, List.forall_mem_cons] at h
  obtain ⟨h0, h1, h2, h3, h4, h5, h6, h7, h8, h9, h10, h11, h12, -⟩ := h
  exact (if_neg h0).trans <| (if_neg h1).trans <| (if_neg h2).trans <| (if_neg h3).trans <| (if_neg h4).trans <|
    (if_neg h5).trans <| (if_neg h6).trans <| (if_neg h7).trans <| (if_neg h8).trans <| (if_neg h9).trans <|
    (if_neg h10).trans <| (if_neg h11).trans (if_neg h12)

theorem decodeWord_of_fits {r : OpRow} (hr : r ∈ opcodeMap) {w : Word} (hfit : r.fits w = true) :
    ∃ i, decodeWord w = .ok i ∧ i.mnemonic = r.mnemonic := by
  obtain ⟨hop, harg⟩ := (OpRow.fits_iff hr w).mp hfit
  obtain ⟨zero, i, hdec, hname, hzero⟩ := decodeWord_of_row w r hr hop
  exact ⟨i, by rw [hdec, hzero.mpr harg]; rfl, hname⟩

/-- A word that fits no row is rejected: its `OP` is reserved, or the row with its `OP` masks an operand bit that is not 0. -/
theorem decodeWord_of_fits_none {w : Word} (h : ∀ r ∈ opcodeMap, r.fits w = false) :
    decodeWord w = .error (if isReservedOp (opField w).toNat then .reservedOp else .reservedArg) := by
  by_cases hres : isReservedOp (opField w).toNat = true
  · rw [decodeWord_of_reservedOp hres, if_pos hres]
  · obtain ⟨r, hr, hop⟩ := exists_row_of_not_reservedOp hres
    obtain ⟨zero, i, hdec, -, hzero⟩ := decodeWord_of_row w r hr hop
    have hmisfit : ¬r.fits w = true := by rw [h r hr]; exact Bool.false_ne_true
    have hz : zero = false := by
      rw [← Bool.not_eq_true, hzero]
      exact fun harg => hmisfit ((OpRow.fits_iff hr w).mpr ⟨hop, harg⟩)
    rw [hdec, hz, if_neg hres]
    rfl

/-- Settles O3: a word that fits no row does not decode, and the `OP` of a word leaves one row to fit. -/
theorem legalWordMatchesExactlyOneRow : Obligations.LegalWordMatchesExactlyOneRow := by
  intro w
  refine ⟨fun ⟨i, hi⟩ => ?_, fun r hr => decodeWord_of_fits hr⟩
  by_contra hnone
  have hmisfit : ∀ r ∈ opcodeMap, r.fits w = false := fun r hr =>
    Bool.eq_false_iff.mpr fun hfit => hnone ⟨r, hr, hfit, fun r' hr' => OpRow.eq_of_fits hr hr' hfit⟩
  rw [decodeWord_of_fits_none hmisfit] at hi
  cases hi

/-- Settles O5: each word is evaluated. -/
theorem specDecoderVectors : Obligations.SpecDecoderVectors := by
  unfold Obligations.SpecDecoderVectors
  decide

end Sys2Proof
end

section
/-! SUPPORT. What a step runs: the issued word, P's self-step or the RESET pulse, or nothing; and the obligations about the
steps with and without a word (30_encoding.md R93, R94, R101 to R104). -/

namespace Sys2Proof.Machine

section

variable {s t : State} {w : Word} {i : Instr} {data : List Byte} {rest : List Event}

theorem step_of_fetch {sig : Signal} (hf : fetch s = (some sig, t)) : step s = runSignal sig t := by
  unfold step
  rw [hf]

theorem runSignal_of_decode_ok {sig : Signal} (hd : decode sig = .ok i) : runSignal sig s = exec i s := by
  unfold runSignal
  rw [hd]

theorem runSignal_of_decode_error {sig : Signal} {r : Reject} (hd : decode sig = .error r) :
    runSignal sig s = rejected r s := by
  unfold runSignal
  rw [hd]

/-! ## Issued words -/

/-- An issued word that is no FRAME behind a kept one at an idle P is the signal of the next step. -/
theorem fetch_issue (ha : s.agenda = .issue w data :: rest)
    (hfree : ∀ len, decodeWord w = .ok (.frame len) → s.pstate = .idle → s.heldFrames = []) :
    fetch s = (some (.opw w), { s with agenda := rest, dataPort := data }) := by
  unfold fetch
  rw [ha]
  exact issueWord_free hfree

theorem step_issue (ha : s.agenda = .issue w data :: rest) (hw : decodeWord w = .ok i)
    (hfree : (∃ len, i = .frame len) → s.pstate = .idle → s.heldFrames = []) :
    step s = exec i { s with agenda := rest, dataPort := data } := by
  refine (step_of_fetch (fetch_issue ha fun len hlen => hfree ⟨len, ?_⟩)).trans (runSignal_of_decode_ok hw)
  rw [hw] at hlen
  injection hlen

theorem step_issue_behind {len : BitVec 24} {c : FrameCall} {cs : List FrameCall} (ha : s.agenda = .issue w data :: rest)
    (hw : decodeWord w = .ok (.frame len)) (hp : s.pstate = .idle) (hh : s.heldFrames = c :: cs) :
    step s = exec (.frame c.len) { s with agenda := rest, heldFrames := cs ++ [⟨len, data⟩], dataPort := c.data } := by
  refine (step_of_fetch ?_).trans (runSignal_of_decode_ok (decode_encode_frame c.len))
  unfold fetch
  rw [ha]
  exact issueWord_behind (s := { s with agenda := rest }) hw hp hh

theorem withFetchWord_eq (s : State) (w : Word) :
    s.withFetchWord 32 w.toNat =
      { s with
        agenda := .issue w (if opField w = 0x10#8 then List.replicate (argField w).toNat 0#8 else []) :: s.agenda
        heldFrames := if opField w = 0x10#8 && s.pstate == .idle then [] else s.heldFrames } := by
  unfold State.withFetchWord presentWord
  rw [Nat.mod_eq_of_lt w.isLt, BitVec.ofNat_toNat, BitVec.setWidth_eq]

/-- `withFetchWord` makes its word the very next operation; it drops kept FRAMEs only for a FRAME at an idle P. -/
theorem step_withFetchWord (hw : decodeWord w = .ok i) :
    ∃ data held, step (s.withFetchWord 32 w.toNat) = exec i { s with dataPort := data, heldFrames := held } ∧
      (∀ len, i = .frame len → data = List.replicate len.toNat 0#8 ∧ (s.pstate = .idle → held = [])) ∧
      ((∀ len, i ≠ .frame len) ∨ s.pstate ≠ .idle → held = s.heldFrames) := by
  have hframe {len : BitVec 24} (hi : i = .frame len) : opField w = 0x10#8 ∧ argField w = len :=
    decodeWord_frame_iff.mp (hi ▸ hw)
  rw [withFetchWord_eq]
  refine ⟨_, _, step_issue rfl hw ?_, ?_, ?_⟩
  · rintro ⟨len, hi⟩ (hp : s.pstate = .idle)
    obtain ⟨hop, -⟩ := hframe hi
    simp [hop, hp]
  · intro len hi
    obtain ⟨hop, rfl⟩ := hframe hi
    exact ⟨if_pos hop, fun hp => by simp [hop, hp]⟩
  · rintro (hi | hp)
    · have hop : opField w ≠ 0x10#8 := fun hop => by
        rw [decodeWord_frame_iff.mpr ⟨hop, rfl⟩] at hw
        injection hw with hw
        exact hi _ hw.symm
      simp [hop]
    · simp [hp]

end

/-! ## The obligations -/

/-- Settles O4: the decoder rejects a word that fits no row, and the word is the signal of its step since it is no FRAME. -/
theorem reservedWordIsRefused : Obligations.ReservedWordIsRefused := by
  intro s w data rest ha
  refine ⟨fun hres r hr => Bool.eq_false_iff.mpr fun hfit => ?_, fun hnone => ?_⟩
  · obtain ⟨hop, -⟩ := (OpRow.fits_iff hr w).mp hfit
    exact (isReservedOp_iff _).mp hres r hr hop
  · have hdec := decodeWord_of_fits_none hnone
    have hfetch := fetch_issue ha fun len hlen => by rw [hdec] at hlen; cases hlen
    rw [step_of_fetch hfetch, runSignal_of_decode_error (sig := .opw w) hdec]
    split <;> rfl

/-- Settles O7: an issued word, a FRAME behind a kept one, and a word that is made the next. -/
theorem stepRunsTheIssuedOperation : Obligations.StepRunsTheIssuedOperation := fun _ _ _ hw =>
  ⟨fun _ _ ha => step_issue ha hw, fun _ _ _ _ _ ha hi => step_issue_behind ha (hi ▸ hw), step_withFetchWord hw⟩

/-- Settles O8: each clause fixes the agenda's head, or an empty agenda with P's state, and so the signal of the step. -/
theorem stepWithoutAWord : Obligations.StepWithoutAWord := by
  refine ⟨fun s rest => ⟨fun ha => ?_, fun a0 ha => ?_, fun ha hp => ?_, fun ha hp => ?_, fun ha hp hf hm => ?_⟩,
    fun s x a0 => ⟨rfl, rfl⟩⟩
  · exact (step_of_fetch (by rw [fetch, ha])).trans (runSignal_of_decode_ok rfl)
  · exact (step_of_fetch (by rw [fetch, ha])).trans (runSignal_of_decode_ok rfl)
  · exact (step_of_fetch (sig := .selfStep) (by simp only [fetch, ha, autonomous, hp])).trans (runSignal_of_decode_ok rfl)
  · obtain hp | hp := hp <;> simp only [step, fetch, ha, autonomous, hp]
  · simp only [step, fetch, ha, autonomous, hp, hf, hm]

end Sys2Proof.Machine
end

section
/-! SUPPORT. The assembler's operand fields (30_encoding.md R105), and the obligation that it takes what fits and refuses the
rest. -/

namespace Sys2Proof.Machine

theorem fitField_toNat {n : Nat} (x : BitVec n) : fitField n x.toNat = .ok x := by
  rw [fitField, if_pos x.isLt, BitVec.ofNat_toNat, BitVec.setWidth_eq]

theorem fitField_of_le {w n : Nat} (h : 2 ^ w ≤ n) : fitField w n = .error .doesNotFit := if_neg (Nat.not_lt.mpr h)

theorem fitBit_toNat (b : Bool) : fitBit b.toNat = .ok b := by cases b <;> rfl

theorem fitBit_of_le {n : Nat} (h : 2 ≤ n) : fitBit n = .error .doesNotFit := if_neg (Nat.not_lt.mpr h)

/-- What an operation word decodes to is assembled from its mnemonic and its operand values. -/
theorem assembleOp_operandValues {w : Word} {i : Instr} (h : decodeWord w = .ok i) :
    assembleOp i.mnemonic (operandValues i) = .ok i := by
  obtain ⟨hreset, hhold, hstep, hclear, hband, hself⟩ := decodeWord_isOperation h
  cases i
  case reset a0 => exact absurd rfl (hreset a0)
  case c1Hold => exact absurd rfl hhold
  case c1Step x => exact absurd rfl (hstep x)
  case c1Clear => exact absurd rfl hclear
  case bandEval x => exact absurd rfl (hband x)
  case sampleStep => exact absurd rfl hself
  all_goals
    simp only [Instr.mnemonic, operandValues, assembleOp, fitField_toNat, fitBit_toNat] <;> rfl

/-- Either operand of ENC_POLL is refused when it does not fit; the other may fit or not. -/
theorem assembleOp_encPoll_of_le {n : Nat} (h : 2 ≤ n) (m : Nat) :
    assembleOp "ENC_POLL" [n, m] = .error .doesNotFit ∧ assembleOp "ENC_POLL" [m, n] = .error .doesNotFit := by
  rw [assembleOp, assembleOp, fitBit_of_le h]
  refine ⟨rfl, ?_⟩
  by_cases hm : m < 2
  · rw [fitBit, if_pos hm]
    rfl
  · rw [fitBit, if_neg hm]
    rfl

/-- Settles O6: an operand's own value fits its field, and a value of 2 to the field's width or more fits none. -/
theorem assemblerTakesOperandsThatFit : Obligations.AssemblerTakesOperandsThatFit := by
  refine ⟨fun w i h => assembleOp_operandValues h, fun a0 => ?_, fun n h => ?_, fun n h => ?_, fun n h => ?_⟩
  · rw [assembleOp, fitBit_toNat]
    rfl
  · rw [assembleOp, assembleOp, fitField_of_le h]
    exact ⟨rfl, rfl⟩
  · rw [assembleOp, fitField_of_le h]
    rfl
  · refine ⟨?_, ?_, ?_, ?_, assembleOp_encPoll_of_le h⟩ <;> rw [assembleOp, fitBit_of_le h] <;> rfl

end Sys2Proof.Machine
end

section
/-! SUPPORT. What each instruction leaves in `LP_Y`, as the code it drives on `lpf_ctl` says (30_encoding.md R102), and the
obligation that says so. -/

namespace Sys2Proof.Machine

/-! ## The polls leave `LP_Y` -/

@[simp] theorem State.timeoutDispatch_lpY (s : State) : s.timeoutDispatch.lpY = s.lpY := by rw [timeoutDispatch_eq]

@[simp] theorem State.pollIdle_lpY (s : State) (l : Bool) : (s.pollIdle l).lpY = s.lpY := by
  cases l <;> exact s.timeoutDispatch_lpY

@[simp] theorem State.pollPressed_lpY (s : State) (l : Bool) : (s.pollPressed l).lpY = s.lpY := by
  unfold State.pollPressed
  split
  · rfl
  · split <;> rfl

@[simp] theorem State.pollAwait_lpY (s : State) (l : Bool) : (s.pollAwait l).lpY = s.lpY := by cases l <;> rfl

@[simp] theorem State.pollEncoder_lpY (s : State) (a b : Bool) : (s.pollEncoder a b).lpY = s.lpY := by
  rw [pollEncoder_eq]
  split <;> rfl

/-! ## The control code -/

/-- What C1 leaves in `LP_Y` under a control code, from the operand `x` and the old value (30_encoding.md R102). -/
def filterUnder (ctl : BitVec 2) (x lp : F32) : F32 :=
  if ctl = 1#2 then filterNext x lp else if ctl = 2#2 then 0#32 else lp

theorem lpfCtlDriven_sampleStep {s : State} (hp : s.pstate = .compute) : lpfCtlDriven .sampleStep s = 1#2 := if_pos hp

theorem lpfCtlDriven_sampleStep_waits {s : State} (hp : s.pstate ≠ .compute) : lpfCtlDriven .sampleStep s = 0#2 :=
  if_neg hp

/-- Which instruction drives which code. -/
theorem lpfCtlDriven_cases (i : Instr) (s : State) :
    lpfCtlDriven i s = 0#2 ∨
    (lpfCtlDriven i s = 1#2 ∧ ((i = .sampleStep ∧ s.pstate = .compute) ∨ ∃ x, i = .c1Step x)) ∨
    (lpfCtlDriven i s = 2#2 ∧ (i = .lpfClear ∨ (∃ a0, i = .reset a0) ∨ i = .c1Clear)) := by
  cases i
  case sampleStep =>
    by_cases hp : s.pstate = .compute
    · exact .inr (.inl ⟨lpfCtlDriven_sampleStep hp, .inl ⟨rfl, hp⟩⟩)
    · exact .inl (lpfCtlDriven_sampleStep_waits hp)
  case c1Step x => exact .inr (.inl ⟨rfl, .inr ⟨x, rfl⟩⟩)
  case lpfClear => exact .inr (.inr ⟨rfl, .inl rfl⟩)
  case reset a0 => exact .inr (.inr ⟨rfl, .inr (.inl ⟨a0, rfl⟩)⟩)
  case c1Clear => exact .inr (.inr ⟨rfl, .inr (.inr rfl)⟩)
  all_goals exact .inl rfl

/-- Every instruction leaves in `LP_Y` what the code it drives says; those without cases do so by definition. -/
theorem exec_lpY {i : Instr} {s t : State} (h : exec i s = .next t) :
    t.lpY = filterUnder (lpfCtlDriven i s) (stageOperand i s) s.lpY := by
  cases i
  case frame len =>
    obtain ⟨-, -, rfl⟩ | ⟨-, -, -, -, rfl⟩ | ⟨-, rfl⟩ := execFrame_cases h
    · rfl
    · exact s.acceptFrame_lpY len
    · rfl
  case mute =>
    obtain ⟨-, rfl⟩ | ⟨-, rfl⟩ := execMute_cases h
    · exact s.startMute_lpY
    · rfl
  case bassAck =>
    obtain ⟨-, -, rfl⟩ := execBassAck_cases h
    rfl
  case midAck =>
    obtain ⟨-, rfl⟩ := execMidAck_cases h
    rfl
  case btnPoll l =>
    obtain ⟨-, rfl⟩ | ⟨-, rfl⟩ | ⟨-, rfl⟩ := execBtnPoll_cases h
    · exact s.pollIdle_lpY l
    · exact s.pollPressed_lpY l
    · exact s.pollAwait_lpY l
  case encPoll a b =>
    injection h with h
    rw [← h]
    split
    · exact s.pollEncoder_lpY a b
    · rfl
  case bandEval x =>
    obtain ⟨-, rfl⟩ := execBandEval_cases h
    exact s.writeBands_lpY x
  case sampleStep =>
    obtain ⟨hp, -, rfl⟩ | ⟨hp, rfl⟩ := execSampleStep_cases h
    · rw [lpfCtlDriven_sampleStep hp]
      exact s.computeSample_lpY
    · rw [lpfCtlDriven_sampleStep_waits hp]
      rfl
  all_goals
    injection h with h
    exact h ▸ rfl

/-- Settles O18: the effect by `exec_lpY`, the drivers and the absence of 11 by the cases of the driven code. -/
theorem filterControlDeterminesTheAccumulator : Obligations.FilterControlDeterminesTheAccumulator := by
  refine ⟨fun i s t h => exec_lpY h, fun a0 s => ⟨lpfCtlDriven_sampleStep, rfl, rfl⟩, fun i s hne => ?_, fun i s => ?_,
    fun x s => rfl⟩
  · obtain h0 | ⟨-, hsample | hstep⟩ | ⟨-, hclear | hreset | hc1⟩ := lpfCtlDriven_cases i s
    · exact absurd h0 hne
    · exact .inl hsample
    · exact .inr (.inr (.inr (.inl hstep)))
    · exact .inr (.inl hclear)
    · exact .inr (.inr (.inl hreset))
    · exact .inr (.inr (.inr (.inr hc1)))
  · obtain h0 | ⟨h1, -⟩ | ⟨h2, -⟩ := lpfCtlDriven_cases i s
    · rw [h0]; decide
    · rw [h1]; decide
    · rw [h2]; decide

end Sys2Proof.Machine
end

section
/-! SUPPORT. The events each instruction appends to the output history, and the obligation that they are those of the table
(30_encoding.md R96). -/

namespace Sys2Proof.Machine

/-- What a step appends to the history is what the table of output events allows its operation. -/
def EmitsByTable (i : Instr) (s t : State) : Prop := ∃ es, t.history = s.history ++ es ∧ ∀ e ∈ es, mayEmit i e

/-- The history after a poll in `B_IDLE`: the events of the gesture that is due, if one is. -/
theorem State.pollIdle_history (s : State) (l : Bool) :
    (s.pollIdle l).history = s.history ++ if s.gestureDue then clickEvents s.bClicks.toNat s.isPlaying else [] := by
  have h : s.timeoutDispatch.history =
      s.history ++ if s.gestureDue then clickEvents s.bClicks.toNat s.isPlaying else [] := by
    rw [timeoutDispatch_eq]
  cases l <;> exact h

theorem mayEmit_clickEvents (l : Bool) (c : Nat) (playing : Bool) :
    ∀ e ∈ clickEvents c playing, mayEmit (.btnPoll l) e := by
  have pair (k : CmdCode) : ∀ e ∈ [Output.cmd k .press, .cmd k .release], mayEmit (.btnPoll l) e := by simp [mayEmit]
  unfold clickEvents
  split
  · exact pair _
  · split
    · exact pair _
    · split
      · exact pair _
      · exact nofun

namespace EmitsByTable

variable {i : Instr} {s t : State}

theorem nothing (h : t.history = s.history) : EmitsByTable i s t := ⟨[], by rw [h, List.append_nil], nofun⟩

theorem event {e : Output} (h : t.history = s.history ++ [e]) (he : mayEmit i e) : EmitsByTable i s t :=
  ⟨[e], h, fun _ hmem => List.mem_singleton.mp hmem ▸ he⟩

theorem execMute (h : Machine.execMute s = .next t) : EmitsByTable .mute s t := by
  obtain ⟨-, rfl⟩ | ⟨-, rfl⟩ := execMute_cases h
  · refine event s.startMute_history ⟨.inr rfl, ?_⟩
    rw [List.length_replicate]
    decide
  · exact nothing rfl

theorem execBassAck (h : Machine.execBassAck s = .next t) : EmitsByTable .bassAck s t := by
  obtain ⟨-, hlen, rfl⟩ := execBassAck_cases h
  rw [legalPwlen_iff] at hlen
  refine event (e := .sinkWrite .mid (s.bytesLE .midBuf (s.pwlen.toNat / 2))) rfl ⟨rfl, ?_⟩
  rw [State.bytesLE_length]
  omega

theorem computeSample (hl : s.legalIndex = true) : EmitsByTable .sampleStep s s.computeSample := by
  rw [State.legalIndex_iff] at hl
  by_cases hlast : s.pidx.toNat + 1 = s.pn.toNat
  · rw [computeSample_last hlast]
    refine event rfl ⟨.inl rfl, ?_⟩
    rw [State.bytesLE_length]
    omega
  · rw [computeSample_more hlast (by omega)]
    exact nothing ((s.clockFilter s.sampleInput).writeBands_history s.sampleInput)

theorem pollEncoder (a b : Bool) : EmitsByTable (.encPoll a b) s (s.pollEncoder a b) := by
  rw [pollEncoder_eq]
  split
  · exact nothing rfl
  · cases s.notifyArmed
    · exact nothing (List.append_nil _)
    · have hlt := (s.edgeVol a b).isLt
      refine event rfl ⟨⟨a, b, rfl⟩, ?_⟩
      rw [BitVec.toNat_setWidth]
      omega

theorem pollIdle (l : Bool) : EmitsByTable (.btnPoll l) s (s.pollIdle l) := by
  refine ⟨_, s.pollIdle_history l, ?_⟩
  split
  · exact mayEmit_clickEvents l _ _
  · exact nofun

theorem pollPressed (l : Bool) : EmitsByTable (.btnPoll l) s (s.pollPressed l) := by
  unfold State.pollPressed
  split
  · exact nothing rfl
  · split
    · rw [powerToggle_eq]
      exact event rfl ⟨l, rfl⟩
    · exact nothing rfl

theorem pollAwait (l : Bool) : EmitsByTable (.btnPoll l) s (s.pollAwait l) := by cases l <;> exact nothing rfl

theorem execBtnPoll {l : Bool} (h : Machine.execBtnPoll l s = .next t) : EmitsByTable (.btnPoll l) s t := by
  obtain ⟨-, rfl⟩ | ⟨-, rfl⟩ | ⟨-, rfl⟩ := execBtnPoll_cases h
  · exact pollIdle l
  · exact pollPressed l
  · exact pollAwait l

/-- Every instruction emits by the table; those that the table does not name emit nothing. -/
theorem exec (h : Machine.exec i s = .next t) : EmitsByTable i s t := by
  cases i
  case mute => exact execMute h
  case bassAck => exact execBassAck h
  case btnPoll l => exact execBtnPoll h
  case encPoll a b =>
    injection h with h
    rw [← h]
    split
    · exact pollEncoder a b
    · exact nothing rfl
  case sampleStep =>
    obtain ⟨-, hl, rfl⟩ | ⟨-, rfl⟩ := execSampleStep_cases h
    · exact computeSample hl
    · exact nothing rfl
  case frame len =>
    obtain ⟨-, -, rfl⟩ | ⟨-, -, -, -, rfl⟩ | ⟨-, rfl⟩ := execFrame_cases h
    · exact nothing rfl
    · exact nothing (s.acceptFrame_history len)
    · exact nothing rfl
  case midAck =>
    obtain ⟨-, rfl⟩ := execMidAck_cases h
    exact nothing rfl
  case bandEval x =>
    obtain ⟨-, rfl⟩ := execBandEval_cases h
    exact nothing (s.writeBands_history x)
  all_goals
    injection h with h
    exact nothing (h ▸ rfl)

end EmitsByTable

/-- Settles O54: the events by `EmitsByTable.exec`; the two lines are defined as the two flags. -/
theorem historyGrowsByTheTableOfEvents : Obligations.HistoryGrowsByTheTableOfEvents := fun _ _ _ h =>
  ⟨EmitsByTable.exec h, rfl, rfl⟩

end Sys2Proof.Machine
end

section
/-! SUPPORT. The steps of the words that SESSION_BEGIN expands to (30_encoding.md R106), and the obligation that they silence
both sinks (70_reset_and_hazards.md R282). -/

namespace Sys2Proof.Machine

section

variable {s t : State} {data : List Byte} {rest : List Event}

theorem runSteps_succ (h : step s = .next t) (k : Nat) : runSteps (k + 1) s = runSteps k t := by rw [runSteps, h]

theorem step_lpfClear (ha : s.agenda = .issue 0x14000000#32 data :: rest) :
    ∃ t, step s = .next t ∧ t.agenda = rest ∧ t.pstate = s.pstate ∧ t.lpY = 0#32 ∧ t.history = s.history :=
  ⟨_, step_issue (i := .lpfClear) ha rfl nofun, rfl, rfl, rfl, rfl⟩

/-- A mute offers zeros to the bass sink and leaves as many for the mid sink. -/
theorem step_mute (ha : s.agenda = .issue 0x11000000#32 data :: rest) (hp : s.pstate = .idle) :
    ∃ t, step s = .next t ∧ t.agenda = rest ∧ t.pstate = .wrBass ∧ t.lpY = s.lpY ∧ t.pwlen = 8192#14 ∧
      t.bytesLE .midBuf 4096 = List.replicate 8192 0#8 ∧
      t.history = s.history ++ [.sinkWrite .bass (List.replicate 8192 0#8)] := by
  refine ⟨_, (step_issue (i := .mute) ha rfl nofun).trans (execMute_idle hp), rfl, rfl, State.startMute_lpY _, rfl,
    State.bytesLE_of_zero fun k hk => ?_, State.startMute_history _⟩
  rw [State.readByte_startMute]
  exact if_pos ⟨nofun, hk⟩

theorem step_bassAck (ha : s.agenda = .issue 0x12000000#32 data :: rest) (hp : s.pstate = .wrBass)
    (hlen : legalPwlen s.pwlen.toNat = true) :
    ∃ t, step s = .next t ∧ t.agenda = rest ∧ t.pstate = .wrMid ∧ t.lpY = s.lpY ∧
      t.history = s.history ++ [.sinkWrite .mid (s.bytesLE .midBuf (s.pwlen.toNat / 2))] :=
  ⟨_, (step_issue (i := .bassAck) ha rfl nofun).trans (execBassAck_enabled hp hlen), rfl, rfl, rfl, rfl⟩

theorem step_midAck (ha : s.agenda = .issue 0x13000000#32 data :: rest) (hp : s.pstate = .wrMid) :
    ∃ t, step s = .next t ∧ t.agenda = rest ∧ t.pstate = .idle ∧ t.lpY = s.lpY ∧ t.history = s.history :=
  ⟨_, (step_issue (i := .midAck) ha rfl nofun).trans (execMidAck_enabled hp), rfl, rfl, rfl, rfl⟩

end

theorem sessionBegin_expand :
    Pseudo.sessionBegin.expand =
      some [.issue 0x14000000#32 [], .issue 0x11000000#32 [], .issue 0x12000000#32 [], .issue 0x13000000#32 []] := rfl

/-- Settles O33: the four steps in order, LPF_CLEAR, MUTE, BASS_ACK and MID_ACK. -/
theorem sessionBeginSilencesBothSinks : Obligations.SessionBeginSilencesBothSinks := by
  intro s es rest hes hp ha
  injection hes.symm.trans sessionBegin_expand with hes
  rw [hes] at ha
  obtain ⟨s₁, hstep₁, ha₁, hp₁, hlp₁, hh₁⟩ := step_lpfClear ha
  obtain ⟨s₂, hstep₂, ha₂, hp₂, hlp₂, hlen, hzero, hh₂⟩ := step_mute ha₁ (hp₁.trans hp)
  have hlegal : legalPwlen s₂.pwlen.toNat = true := by rw [hlen]; rfl
  have hhalf : s₂.pwlen.toNat / 2 = 4096 := by rw [hlen]; rfl
  obtain ⟨s₃, hstep₃, ha₃, hp₃, hlp₃, hh₃⟩ := step_bassAck ha₂ hp₂ hlegal
  obtain ⟨t, hstep₄, ha₄, hp₄, hlp₄, hh₄⟩ := step_midAck ha₃ hp₃
  refine ⟨t, ?_, hp₄, ?_, ha₄, ?_⟩
  · rw [runSteps_succ hstep₁, runSteps_succ hstep₂, runSteps_succ hstep₃, runSteps_succ hstep₄, runSteps]
  · rw [hlp₄, hlp₃, hlp₂, hlp₁]
  · rw [hh₄, hh₃, hhalf, hzero, hh₂, hh₁, List.append_assoc, List.singleton_append]

end Sys2Proof.Machine
end

section
/-! SUPPORT. Bounds on the magnitudes of binary32 results: rounding never passes a finite value that bounds the exact result,
so a bound on the operands goes through each operation by integer arithmetic on the bounds. -/

namespace Sys2Proof.Machine

/-! ## Finite magnitudes -/

/-- The largest finite value. -/
def fpMaxFinite : F32 := 0x7F7FFFFF#32

theorem fpMag_fpMaxFinite : fpMag fpMaxFinite = (2 ^ 24 - 1) * 2 ^ 253 := by decide +kernel

theorem fpIsFinite_iff_fpMag_le (a : F32) : fpIsFinite a = true ↔ fpMag a ≤ fpMag fpMaxFinite := by
  obtain ⟨e, k, hm, hk, hgrid⟩ := magOfBits_onGrid (fpBits a)
  rw [fpMag_fpMaxFinite, fpIsFinite_iff, fpMag_eq, hm, magOfBits_grid (Nat.le_of_lt hk) hgrid]
  unfold infBits
  constructor
  · intro h
    exact Nat.mul_le_mul (by omega) (Nat.pow_le_pow_right Nat.two_pos (by omega))
  · intro h
    by_contra hinf
    have hmag : 2 ^ 23 * 2 ^ 254 ≤ k * 2 ^ e := Nat.mul_le_mul (by omega) (Nat.pow_le_pow_right Nat.two_pos (by omega))
    exact absurd (hmag.trans h) (by decide +kernel)

theorem fpMag_lt_overflowMag {a : F32} (h : fpIsFinite a = true) : fpMag a < overflowMag := by
  have htop : fpMag fpMaxFinite < overflowMag := by decide +kernel
  exact Nat.lt_of_le_of_lt ((fpIsFinite_iff_fpMag_le a).mp h) htop

/-- `a` is finite and at most the value `c` in magnitude. -/
def FpWithin (c a : F32) : Prop := fpIsFinite a = true ∧ fpMag a ≤ fpMag c

namespace FpWithin

/-- Below a finite magnitude, finiteness comes for free. -/
theorem iff_fpMag_le {c : F32} (hc : fpIsFinite c = true) (a : F32) : FpWithin c a ↔ fpMag a ≤ fpMag c := by
  rw [FpWithin, fpIsFinite_iff_fpMag_le] at *
  omega

theorem finite {c a : F32} (h : FpWithin c a) : fpIsFinite a = true := h.1

theorem zero (c : F32) : FpWithin c 0#32 := ⟨rfl, Nat.zero_le _⟩

theorem self {a : F32} (ha : fpIsFinite a = true) : FpWithin a a := ⟨ha, Nat.le_refl _⟩

theorem neg {c a : F32} (h : FpWithin c a) : FpWithin c (fpNeg a) := by
  rwa [FpWithin, fpIsFinite_neg, fpMag_neg]

/-! ## Bounds through the operations -/

/-- Rounding does not pass a finite value. -/
theorem pack_roundMag {c : F32} {n d : Nat} (hd : 0 < d) (hc : fpIsFinite c = true) (h : n ≤ fpMag c * d) (neg : Bool) :
    FpWithin c (fpPack neg (roundMag n d)) := by
  have ho : n < overflowMag * d :=
    Nat.lt_of_le_of_lt h (Nat.mul_lt_mul_of_pos_right (fpMag_lt_overflowMag hc) hd)
  rw [iff_fpMag_le hc, fpMag_pack neg (roundMag_le n d), fpMag_eq c]
  rw [fpMag_eq] at h
  exact magOfBits_roundMag_le hd ho h

section

variable {A B c a b : F32} (hc : fpIsFinite c = true) (ha : FpWithin A a) (hb : FpWithin B b)

include hc ha hb

theorem mul (h : fpMag A * fpMag B ≤ fpMag c * 2 ^ 149) : FpWithin c (fpMul a b) := by
  obtain ⟨hfa, hma⟩ := ha
  obtain ⟨hfb, hmb⟩ := hb
  rw [fpMul_finite hfa hfb]
  exact pack_roundMag (Nat.two_pow_pos 149) hc ((Nat.mul_le_mul hma hmb).trans h) _

theorem add (h : fpMag A + fpMag B ≤ fpMag c) : FpWithin c (fpAdd a b) := by
  obtain ⟨hfa, hma⟩ := ha
  obtain ⟨hfb, hmb⟩ := hb
  have habs : (fpVal a + fpVal b).natAbs ≤ fpMag c := by
    have hsum := Int.natAbs_add_le (fpVal a) (fpVal b)
    rw [fpVal_natAbs, fpVal_natAbs] at hsum
    omega
  rw [fpAdd_finite hfa hfb]
  split
  · rw [← roundMag_zero Nat.one_pos]
    exact pack_roundMag Nat.one_pos hc (Nat.zero_le _) _
  · exact pack_roundMag Nat.one_pos hc (by rwa [Nat.mul_one]) _

theorem sub (h : fpMag A + fpMag B ≤ fpMag c) : FpWithin c (fpSub a b) := add hc ha hb.neg h

end

end FpWithin

/-! ## Samples and the unit interval -/

/-- 32768.0, the largest magnitude of a sample. -/
def fpSampleMax : F32 := 0x47000000#32

theorem fpMag_fpSampleMax : fpMag fpSampleMax = 2 ^ 164 := by decide +kernel

theorem fpWithin_fpSampleMax_iff (a : F32) : FpWithin fpSampleMax a ↔ fpMag a ≤ 2 ^ 164 := by
  rw [FpWithin.iff_fpMag_le rfl, fpMag_fpSampleMax]

theorem fpWithin_fpOfInt_sample (v : Sample) : FpWithin fpSampleMax (fpOfInt v.toInt) := by
  have hlo := v.le_toInt
  have hhi := v.toInt_lt
  have habs : v.toInt.natAbs ≤ 2 ^ 15 := by omega
  rw [fpWithin_fpSampleMax_iff, ← fpVal_natAbs, fpVal_fpOfInt (by omega), Int.natAbs_mul]
  exact Nat.mul_le_mul_right (2 ^ 149) habs

theorem fpMag_fpOne : fpMag fpOne = 2 ^ 149 := by decide +kernel

/-- `a` is in [0, 1], and no negative zero. -/
def FpInUnit (a : F32) : Prop := fpSign a = false ∧ FpWithin fpOne a

theorem fpInUnit_iff (a : F32) : FpInUnit a ↔ fpSign a = false ∧ fpMag a ≤ 2 ^ 149 := by
  rw [FpInUnit, FpWithin.iff_fpMag_le rfl, fpMag_fpOne]

theorem FpInUnit.within {a : F32} (h : FpInUnit a) : FpWithin fpOne a := h.2

theorem fpInUnit_zero : FpInUnit 0#32 := ⟨rfl, .zero _⟩

theorem fpVal_of_not_sign {a : F32} (h : fpSign a = false) : fpVal a = fpMag a := by
  rw [fpVal, h, if_neg Bool.false_ne_true]

theorem fpInUnit_fpMin_fpOne {a : F32} (h : fpSign a = false) : FpInUnit (fpMin fpOne a) := by
  rw [fpInUnit_iff]
  unfold fpMin
  split
  case isTrue hlt =>
    simp only [fpLt, Bool.and_eq_true, decide_eq_true_eq] at hlt
    obtain ⟨-, hlt⟩ := hlt
    rw [fpVal_of_not_sign h, fpVal_of_not_sign rfl, fpMag_fpOne] at hlt
    exact ⟨h, by omega⟩
  case isFalse => exact ⟨rfl, Nat.le_of_eq fpMag_fpOne⟩

/-- A quotient of two numbers that are not negative is not negative, and the minimum caps it (42_pipeline.md R152). -/
theorem fpInUnit_volFactor (v : BitVec 7) : FpInUnit (volFactor v) := by
  have hscaled : volScaled v ≤ 2 ^ 24 := by
    have hv := v.isLt
    unfold volScaled Config.volCtrlMax Config.volMax
    omega
  have hfin : fpIsFinite (fpOfInt (volScaled v)) = true := fpIsFinite_fpOfInt (by omega)
  have hsign : fpSign (fpOfInt (volScaled v)) = false := by
    unfold fpOfInt
    rw [fpSign_pack _ (roundMag_le _ _), decide_eq_false (by omega)]
  apply fpInUnit_fpMin_fpOne
  rw [fpDiv_finite hfin rfl (by decide +kernel), fpSign_pack _ (roundMag_le _ _), hsign]
  rfl

theorem fpWithin_scaleSample (v : Sample) {pvf : F32} (h : FpInUnit pvf) : FpWithin fpSampleMax (scaleSample v pvf) :=
  .mul rfl (fpWithin_fpOfInt_sample v) h.within (by decide +kernel)

/-! ## The filter -/

section

variable {x lp : F32} (hx : FpWithin fpSampleMax x)

include hx

/-- The input's part of the filter's next value is at most `ALPHA` times 32768.0, which is 1310.72. -/
theorem fpWithin_alpha_mul : FpWithin 0x44A3D70A#32 (fpMul Config.alpha x) :=
  .mul rfl (.self rfl) hx (by decide +kernel)

/-- `OMA` times 32768.0, which is 31457.28, leaves room for the input's part (40_lpf.md R125). -/
theorem fpWithin_filterNext (hlp : FpWithin fpSampleMax lp) : FpWithin fpSampleMax (filterNext x lp) :=
  have hkept : FpWithin 0x46F5C28F#32 (fpMul Config.oma lp) := .mul rfl (.self rfl) hlp (by decide +kernel)
  .add rfl (fpWithin_alpha_mul hx) hkept (by decide +kernel)

/-- `OMA` times the largest finite value falls short of it by far more than the input's part. -/
theorem fpIsFinite_filterNext (hlp : fpIsFinite lp = true) : fpIsFinite (filterNext x lp) = true :=
  have hmax : FpWithin fpMaxFinite lp := ⟨hlp, (fpIsFinite_iff_fpMag_le lp).mp hlp⟩
  have hkept : FpWithin 0x7F75C28F#32 (fpMul Config.oma lp) := .mul rfl (.self rfl) hmax (by decide +kernel)
  (FpWithin.add (c := fpMaxFinite) rfl (fpWithin_alpha_mul hx) hkept (by decide +kernel)).finite

end

end Sys2Proof.Machine
end

section
/-! SUPPORT. C1's three controls (40_lpf.md R121 to R123), the numeric invariant under instructions and steps (R125), and the
obligations that say so. -/

namespace Sys2Proof.Machine

/-! ## A write of `LP_Y` -/

section

variable (s : State) (v : F32)

theorem keepsRegs_writeLpY : KeepsRegs [.LP_Y] s (s.writeLpY v) := by
  intro r hr
  cases r
  case LP_Y => simp at hr
  all_goals rfl

theorem keepsBuffers_writeLpY : KeepsBuffers s (s.writeLpY v) := fun b off =>
  State.readByte_congr (s.writeLpY_buf v b) rfl off

theorem keepsPorts_writeLpY : KeepsPorts s (s.writeLpY v) := ⟨rfl, rfl, rfl, rfl, rfl, rfl⟩

end

/-- Zeros in, +0.0 out: only the input's product can be a negative zero, and the sum of the two zeros is positive then. -/
theorem filterNext_zero {x : F32} (hx : x = 0#32 ∨ x = 0x80000000#32) : filterNext x 0#32 = 0#32 := by
  obtain rfl | rfl := hx
  · decide +kernel
  · decide +kernel

/-- Settles O15: the effect is a write of `LP_Y` with the filter's next value, whose bounds the magnitudes give. -/
theorem filterStepWritesTheAccumulator : Obligations.FilterStepWritesTheAccumulator := by
  intro s x
  refine ⟨s.clockFilter x, rfl, rfl, fun hx hlp => ?_, by decide +kernel, fun hx hlp => ?_, keepsRegs_writeLpY s _,
    keepsBuffers_writeLpY s _, keepsPorts_writeLpY s _, rfl, rfl, fun i hi => ?_⟩
  · rw [State.clockFilter_lpY, hlp, filterNext_zero hx]
  · have hx := (fpWithin_fpSampleMax_iff x).mpr hx
    refine ⟨fpIsFinite_filterNext hx hlp, fun hmag => ?_⟩
    rw [← fpWithin_fpSampleMax_iff] at hmag ⊢
    exact fpWithin_filterNext hx hmag
  · obtain h0 | ⟨-, ⟨hsample, -⟩ | hstep⟩ | ⟨h2, -⟩ := lpfCtlDriven_cases i s
    · exact absurd (h0.symm.trans hi) (by decide)
    · exact .inl hsample
    · exact .inr hstep
    · exact absurd (h2.symm.trans hi) (by decide)

/-- Settles O16: the effect is a write of `LP_Y` with +0.0. -/
theorem filterClearZeroesTheAccumulator : Obligations.FilterClearZeroesTheAccumulator := fun s =>
  ⟨s.clearFilter, rfl, rfl, keepsRegs_writeLpY s _, keepsBuffers_writeLpY s _, keepsPorts_writeLpY s _, rfl, fun _ => rfl,
    rfl, fun _ => rfl⟩

/-- Settles O17: an instruction that drives neither 01 nor 10 leaves `LP_Y` by `exec_lpY`. -/
theorem everyOtherStepHoldsTheAccumulator : Obligations.EveryOtherStepHoldsTheAccumulator := by
  refine ⟨fun _ => rfl, fun _ => rfl, fun i s t h hsample hclear hreset hstep hc1 => ?_⟩
  rw [exec_lpY h]
  obtain h0 | ⟨-, ⟨hi, -⟩ | ⟨x, hi⟩⟩ | ⟨-, hi | ⟨a0, hi⟩ | hi⟩ := lpfCtlDriven_cases i s
  · rw [h0]
    rfl
  · exact absurd hi hsample
  · exact absurd hi (hstep x)
  · exact absurd hi hclear
  · exact absurd hi (hreset a0)
  · exact absurd hi hc1

/-! ## The writers of `PVF` -/

@[simp] theorem State.pollIdle_pvf (s : State) (l : Bool) : (s.pollIdle l).pvf = s.pvf := by
  have hdispatch : s.timeoutDispatch.pvf = s.pvf := by rw [timeoutDispatch_eq]
  cases l <;> exact hdispatch

@[simp] theorem State.pollPressed_pvf (s : State) (l : Bool) : (s.pollPressed l).pvf = s.pvf := by
  unfold State.pollPressed
  split
  · rfl
  · split <;> rfl

@[simp] theorem State.pollAwait_pvf (s : State) (l : Bool) : (s.pollAwait l).pvf = s.pvf := by cases l <;> rfl

@[simp] theorem State.pollEncoder_pvf (s : State) (a b : Bool) : (s.pollEncoder a b).pvf = s.pvf := by
  rw [pollEncoder_eq]
  split <;> rfl

/-- Every instruction leaves `PVF`, but for an accepted frame, which latches the volume factor, and RESET, which clears it. -/
theorem exec_pvf {i : Instr} {s t : State} (h : exec i s = .next t) :
    t.pvf = s.pvf ∨ t.pvf = volFactor s.vol ∨ t.pvf = 0#32 := by
  cases i
  case frame len =>
    obtain ⟨-, -, rfl⟩ | ⟨-, -, -, -, rfl⟩ | ⟨-, rfl⟩ := execFrame_cases h
    · exact .inl rfl
    · exact .inr (.inl rfl)
    · exact .inl rfl
  case reset a0 =>
    injection h with h
    exact .inr (.inr (h ▸ rfl))
  all_goals left
  case mute =>
    obtain ⟨-, rfl⟩ | ⟨-, rfl⟩ := execMute_cases h
    · exact s.startMute_pvf
    · rfl
  case bassAck =>
    obtain ⟨-, -, rfl⟩ := execBassAck_cases h
    rfl
  case midAck =>
    obtain ⟨-, rfl⟩ := execMidAck_cases h
    rfl
  case btnPoll l =>
    obtain ⟨-, rfl⟩ | ⟨-, rfl⟩ | ⟨-, rfl⟩ := execBtnPoll_cases h
    · exact s.pollIdle_pvf l
    · exact s.pollPressed_pvf l
    · exact s.pollAwait_pvf l
  case encPoll a b =>
    injection h with h
    rw [← h]
    split
    · exact s.pollEncoder_pvf a b
    · rfl
  case bandEval x =>
    obtain ⟨-, rfl⟩ := execBandEval_cases h
    exact s.writeBands_pvf x
  case sampleStep =>
    obtain ⟨-, -, rfl⟩ | ⟨-, rfl⟩ := execSampleStep_cases h
    · exact s.computeSample_pvf
    · rfl
  all_goals
    injection h with h
    exact h ▸ rfl

/-! ## What the schedule can run -/

/-- The schedule issues operation words, RESET pulses and P's self-step; C1's and C2's lines are C3's to drive
(30_encoding.md R102, R103). -/
theorem fetch_signal {s : State} {sig : Signal} (h : (fetch s).1 = some sig) :
    (∃ w, sig = .opw w) ∨ (∃ a0, sig = .resetPin true a0) ∨ sig = .selfStep := by
  have hFrame {u : State} (h : (serveFrame u).1 = some sig) : ∃ w, sig = .opw w := by
    unfold serveFrame at h
    split at h
    · injection h with h
      exact ⟨_, h.symm⟩
    · cases h
  have hMute {u : State} (h : (serveMute u).1 = some sig) : ∃ w, sig = .opw w := by
    unfold serveMute at h
    split at h
    · injection h with h
      exact ⟨_, h.symm⟩
    · cases h
  have hIssue {w : Word} {data : List Byte} {u : State} (h : (issueWord w data u).1 = some sig) : ∃ w, sig = .opw w := by
    unfold issueWord at h
    split at h
    · exact hFrame h
    · injection h with h
      exact ⟨_, h.symm⟩
  unfold fetch at h
  split at h
  · unfold autonomous at h
    split at h
    · injection h with h
      exact .inr (.inr h.symm)
    · exact .inl (hFrame h)
    · exact .inl (hMute h)
    · split at h
      · exact .inl (hFrame h)
      · exact .inl (hMute h)
    · cases h
  · exact .inl (hIssue h)
  · injection h with h
    exact .inr (.inl ⟨_, h.symm⟩)
  · injection h with h
    exact .inr (.inr h.symm)
  · exact .inl (hFrame h)
  · exact .inl (hMute h)

theorem fetch_ne_c1Step {s : State} {sig : Signal} {i : Instr} (h : (fetch s).1 = some sig) (hd : decode sig = .ok i)
    (x : F32) : i ≠ .c1Step x := by
  obtain ⟨w, rfl⟩ | ⟨a0, rfl⟩ | rfl := fetch_signal h
  · obtain ⟨-, -, hstep, -⟩ := decodeWord_isOperation hd
    exact hstep x
  · injection hd with hd
    exact hd ▸ nofun
  · injection hd with hd
    exact hd ▸ nofun

/-! ## The numeric invariant -/

theorem State.numericInv_iff (s : State) : s.NumericInv ↔ FpWithin fpSampleMax s.lpY ∧ FpInUnit s.pvf := by
  rw [fpInUnit_iff, FpWithin, fpMag_fpSampleMax, State.NumericInv, and_assoc]

namespace State.NumericInv

variable {s t : State}

theorem lpY_within (h : s.NumericInv) : FpWithin fpSampleMax s.lpY := (s.numericInv_iff.mp h).1

theorem pvf_inUnit (h : s.NumericInv) : FpInUnit s.pvf := (s.numericInv_iff.mp h).2

theorem sampleInput_within (h : s.NumericInv) : FpWithin fpSampleMax s.sampleInput :=
  fpWithin_scaleSample _ h.pvf_inUnit

/-- Every instruction keeps the invariant but C1.STEP, whose operand may be anything. -/
theorem exec {i : Instr} (h : s.NumericInv) (ht : Machine.exec i s = .next t) (hi : ∀ x, i ≠ .c1Step x) : t.NumericInv := by
  refine t.numericInv_iff.mpr ⟨?_, ?_⟩
  · rw [exec_lpY ht]
    obtain h0 | ⟨h1, ⟨rfl, -⟩ | ⟨x, hx⟩⟩ | ⟨h2, -⟩ := lpfCtlDriven_cases i s
    · rw [h0]
      exact h.lpY_within
    · rw [h1]
      exact fpWithin_filterNext h.sampleInput_within h.lpY_within
    · exact absurd hx (hi x)
    · rw [h2]
      exact .zero _
  · obtain hkept | hlatched | hreset := exec_pvf ht
    · rw [hkept]
      exact h.pvf_inUnit
    · rw [hlatched]
      exact fpInUnit_volFactor s.vol
    · rw [hreset]
      exact fpInUnit_zero

/-- What the schedule prepares is nothing the invariant speaks of. -/
theorem fetch (h : s.NumericInv) : (Machine.fetch s).2.NumericInv := by
  obtain ⟨ag, dp, hf, hm, fp, heq⟩ := fetch_eq s
  rw [heq]
  exact h

theorem step (h : s.NumericInv) (ht : Machine.step s = .next t) : t.NumericInv := by
  obtain ⟨sig, i, hsig, hd, hexec⟩ | ⟨-, rfl⟩ := step_cases ht
  · exact h.fetch.exec hexec (fetch_ne_c1Step hsig hd)
  · exact h.fetch

end State.NumericInv

/-! ## The bands before narrowing -/

/-- Both gains are at most 1 (41_band_stage.md R131). -/
theorem fpWithin_fpOne_gain (party : Bool) : FpWithin fpOne (if party = true then 0x3F800000#32 else 0x3E99999A#32) :=
  (FpWithin.iff_fpMag_le rfl _).mpr (by cases party <;> decide +kernel)

/-- Settles O57: the invariant by the instruction a step runs; the input and the filter value are at most 32768.0, their
difference at most 65536.0, and no gain raises a band above that. -/
theorem stepKeepsTheFilterBounded : Obligations.StepKeepsTheFilterBounded := by
  refine ⟨fun _ _ h ht => h.step ht, ?_⟩
  rintro s x lp g h hx hlp rfl
  have hg := fpWithin_fpOne_gain s.party
  have hx : FpWithin fpSampleMax x := hx ▸ h.sampleInput_within
  have hlp : FpWithin fpSampleMax lp := hlp ▸ fpWithin_filterNext hx h.lpY_within
  have hbass : FpWithin fpSampleMax (fpMul x _) := .mul rfl hx hg (by decide +kernel)
  have hdiff : FpWithin 0x47800000#32 (fpSub x lp) := .sub rfl hx hlp (by decide +kernel)
  have hmid : FpWithin 0x47800000#32 (fpMul (fpSub x lp) _) := .mul rfl hdiff hg (by decide +kernel)
  exact ⟨hx.finite, hlp.finite, hbass.finite, hmid.finite⟩

end Sys2Proof.Machine
end

section
/-! SUPPORT. The narrowing of a band to a sample (41_band_stage.md R133): clipping is a maximum and a minimum of values, and
truncation keeps their order; and the obligation that narrowing is the truncated value, clipped. -/

namespace Sys2Proof.Machine

/-! ## The bounds of a sample -/

theorem fpVal_fpMin16 : fpVal fpMin16 = -32768 * 2 ^ 149 := by decide +kernel

theorem fpVal_fpMax16 : fpVal fpMax16 = 32767 * 2 ^ 149 := by decide +kernel

theorem fpVal_fpMin16_le_fpMax16 : fpVal fpMin16 ≤ fpVal fpMax16 := by decide +kernel

/-- The integer part of a value in units of 2^-149, rounded toward zero. -/
def truncUnits (n : Int) : Int := n.tdiv (2 ^ 149)

theorem truncUnits_mono : Monotone truncUnits := fun _ _ h => Int.tdiv_le_tdiv (by decide) h

@[simp] theorem truncUnits_fpMin16 : truncUnits (fpVal fpMin16) = -32768 := by
  rw [fpVal_fpMin16, truncUnits, Int.mul_tdiv_cancel _ (by decide)]

@[simp] theorem truncUnits_fpMax16 : truncUnits (fpVal fpMax16) = 32767 := by
  rw [fpVal_fpMax16, truncUnits, Int.mul_tdiv_cancel _ (by decide)]

/-! ## Clipping, then truncation -/

/-- Off the NaNs, the order of binary32 is that of the values. -/
theorem fpLt_iff {a b : F32} (ha : fpIsNaN a = false) (hb : fpIsNaN b = false) : fpLt a b = true ↔ fpVal a < fpVal b := by
  simp [fpLt, ha, hb]

section

variable {v : F32} (hv : fpIsNaN v = false)

include hv

theorem fpIsNaN_clip16 : fpIsNaN (clip16 v) = false := by
  unfold clip16
  split
  · rfl
  · split
    · rfl
    · exact hv

theorem fpVal_clip16 : fpVal (clip16 v) = max (fpVal fpMin16) (min (fpVal fpMax16) (fpVal v)) := by
  have hle := fpVal_fpMin16_le_fpMax16
  unfold clip16
  simp only [fpLt_iff hv (show fpIsNaN fpMin16 = false from rfl), fpLt_iff (show fpIsNaN fpMax16 = false from rfl) hv]
  split_ifs <;> omega

/-- In its domain, truncation fits a sample and so loses nothing. -/
theorem toInt_trunc16 (hlo : fpVal fpMin16 ≤ fpVal v) (hhi : fpVal v ≤ fpVal fpMax16) :
    (trunc16 v).toInt = truncUnits (fpVal v) := by
  have hmin := truncUnits_mono hlo
  have hmax := truncUnits_mono hhi
  rw [truncUnits_fpMin16] at hmin
  rw [truncUnits_fpMax16] at hmax
  have hdom : (!fpIsNaN v && decide (fpVal fpMin16 ≤ fpVal v) && decide (fpVal v ≤ fpVal fpMax16)) = true := by
    simp [hv, hlo, hhi]
  unfold trunc16
  rw [if_pos hdom]
  exact BitVec.toInt_ofInt_eq_self (by decide) hmin (Int.lt_of_le_of_lt hmax (by decide))

end

/-- Settles O13: the clipped value is in truncation's domain, and truncation, being monotone, passes through the maximum and
the minimum. -/
theorem narrowingClipsThenTruncates : Obligations.NarrowingClipsThenTruncates := by
  intro v hv
  have hclip := fpVal_clip16 hv
  have hlo : fpVal fpMin16 ≤ fpVal (clip16 v) := hclip ▸ le_max_left _ _
  have hhi : fpVal (clip16 v) ≤ fpVal fpMax16 := hclip ▸ max_le fpVal_fpMin16_le_fpMax16 (min_le_left _ _)
  calc (narrow16 v).toInt
      = truncUnits (fpVal (clip16 v)) := toInt_trunc16 (fpIsNaN_clip16 hv) hlo hhi
    _ = max (-32768) (min 32767 (truncUnits (fpVal v))) := by
      rw [hclip, truncUnits_mono.map_max, truncUnits_mono.map_min, truncUnits_fpMin16, truncUnits_fpMax16]

end Sys2Proof.Machine
end

section
/-! SUPPORT. C2's two results (41_band_stage.md R130 to R134): the gains by `PARTY`, the frame of BAND_EVAL, and what of a
SAMPLE_STEP the filter value does not enter; and the obligations that say so. -/

namespace Sys2Proof.Machine

/-! ## Gains and the strobe -/

/-- The one gain of both bands (41_band_stage.md R131). -/
def bandGain (party : Bool) : F32 := if party = true then 0x3F800000#32 else 0x3E99999A#32

theorem gains_eq (party : Bool) : gains party = (bandGain party, bandGain party) := by cases party <;> rfl

theorem bass16_eq (x : F32) (party : Bool) : bass16 x party = narrow16 (fpMul x (bandGain party)) := by
  rw [bass16, gains_eq]

theorem mid16_eq (x lp : F32) (party : Bool) : mid16 x lp party = narrow16 (fpMul (fpSub x lp) (bandGain party)) := by
  rw [mid16, gains_eq]

/-- Which instruction raises `band_we` (30_encoding.md R103). -/
theorem eq_of_bandWeDriven {i : Instr} {s : State} (h : bandWeDriven i s = true) :
    i = .sampleStep ∨ ∃ x, i = .bandEval x := by
  cases i
  case sampleStep => exact .inl rfl
  case bandEval x => exact .inr ⟨x, rfl⟩
  all_goals cases h

/-! ## BAND_EVAL -/

theorem execBandEval_enabled {x : F32} {s : State} (hi : s.pidx.toNat < 4096) :
    execBandEval x s = .next (s.writeBands x) := if_pos hi

section

variable (s : State) (x : F32)

theorem keepsBytes_writeBands (b : Buf) :
    KeepsBytes b (2 * s.pidx.toNat) (2 * s.pidx.toNat + 2) s (s.writeBands x) := by
  intro off hoff
  rw [State.readByte_writeBands]
  exact if_neg (by omega)

theorem keepsBytes_writeBands_inBuf : KeepsBytes .inBuf 0 0 s (s.writeBands x) := fun off _ =>
  State.readByte_congr (b := .inBuf) (s.writeBands_inBuf x) (s.writeBands_freeBuf x) off

theorem keepsRegs_writeBands : KeepsRegs [] s (s.writeBands x) := by
  intro r _
  cases r <;> rfl

theorem keepsPorts_writeBands : KeepsPorts s (s.writeBands x) := ⟨rfl, rfl, rfl, rfl, rfl, rfl⟩

end

/-- Settles O19: the instruction is enabled and its effect is `writeBands`, whose samples and frame the lemmas above give. -/
theorem bandEvalWritesBothBands : Obligations.BandEvalWritesBothBands := fun s x hi =>
  ⟨s.writeBands x, execBandEval_enabled hi, (s.readSample_writeBands_bass x).trans (bass16_eq x s.party),
    (s.readSample_writeBands_mid x).trans (mid16_eq x s.lpY s.party), keepsBytes_writeBands s x .bassBuf,
    keepsBytes_writeBands s x .midBuf, keepsBytes_writeBands_inBuf s x, keepsRegs_writeBands s x, keepsPorts_writeBands s x,
    s.writeBands_history x, rfl, fun _ => eq_of_bandWeDriven⟩

/-! ## The reach of the filter value -/

/-- The state with another filter value and another mid buffer: what the old filter value can enter in a SAMPLE_STEP. -/
def State.withMidPath (lp : F32) (mid : Memory) (s : State) : State := { s with lpY := lp, midBuf := mid }

section

variable (lp : F32) (mid : Memory) (s : State)

/-- What a frame's last sample offers is the bass buffer. -/
theorem State.advance_withMidPath : (s.withMidPath lp mid).advance = s.advance.withMidPath lp mid := by
  by_cases hlast : s.pidx + 1#13 = s.pn
  · rw [advance_of_last hlast, advance_of_last (s := s.withMidPath lp mid) hlast]
    rfl
  · rw [advance_of_more hlast, advance_of_more (s := s.withMidPath lp mid) hlast]
    rfl

/-- The filter value of before a SAMPLE_STEP enters nothing after it but the filter value and the mid buffer: the input does
not read it, nor does the bass band (41_band_stage.md R134). -/
theorem State.computeSample_writeLpY (v : F32) :
    ∃ lp mid, (s.writeLpY v).computeSample = s.computeSample.withMidPath lp mid :=
  ⟨_, _, State.advance_withMidPath (filterNext s.sampleInput v)
    (((s.writeLpY v).clockFilter s.sampleInput).writeBands s.sampleInput).midBuf
    ((s.clockFilter s.sampleInput).writeBands s.sampleInput)⟩

end

/-- Settles O20: the two runs end in states that `withMidPath` relates, so the bass buffer and the history are the same. -/
theorem bassBandIgnoresTheFilter : Obligations.BassBandIgnoresTheFilter := by
  intro s v hp hlt hle
  have hl : s.legalIndex = true := s.legalIndex_iff.mpr ⟨hlt, hle⟩
  obtain ⟨lp, mid, hv⟩ := s.computeSample_writeLpY v
  refine ⟨s.computeSample, s.computeSample.withMidPath lp mid, execSampleStep_enabled hp hl, ?_, fun _ => rfl, rfl,
    s.readSample_computeSample_bass.trans (bass16_eq _ _)⟩
  rw [← hv]
  exact execSampleStep_enabled (s := s.writeLpY v) hp hl

end Sys2Proof.Machine
end

section
/-! SUPPORT. The P sequencer (42_pipeline.md R150): the state each instruction leaves `PSTATE` in, which instruction a step can
run, and the obligations about the sequencer and its sink waits. -/

namespace Sys2Proof.Machine

/-! ## The polls leave `PSTATE` and `PWLEN` -/

section

variable (s : State)

theorem State.timeoutDispatch_keepsOffer : s.timeoutDispatch.pstate = s.pstate ∧ s.timeoutDispatch.pwlen = s.pwlen := by
  rw [timeoutDispatch_eq]
  exact ⟨rfl, rfl⟩

theorem State.pollIdle_keepsOffer (l : Bool) : (s.pollIdle l).pstate = s.pstate ∧ (s.pollIdle l).pwlen = s.pwlen := by
  cases l <;> exact s.timeoutDispatch_keepsOffer

theorem State.pollPressed_keepsOffer (l : Bool) :
    (s.pollPressed l).pstate = s.pstate ∧ (s.pollPressed l).pwlen = s.pwlen := by
  unfold State.pollPressed
  split
  · exact ⟨rfl, rfl⟩
  · split <;> exact ⟨rfl, rfl⟩

theorem State.pollAwait_keepsOffer (l : Bool) : (s.pollAwait l).pstate = s.pstate ∧ (s.pollAwait l).pwlen = s.pwlen := by
  cases l <;> exact ⟨rfl, rfl⟩

theorem State.pollEncoder_keepsOffer (a b : Bool) :
    (s.pollEncoder a b).pstate = s.pstate ∧ (s.pollEncoder a b).pwlen = s.pwlen := by
  rw [pollEncoder_eq]
  split <;> exact ⟨rfl, rfl⟩

end

section

variable {s t : State}

theorem execBtnPoll_keepsOffer {l : Bool} (h : execBtnPoll l s = .next t) : t.pstate = s.pstate ∧ t.pwlen = s.pwlen := by
  obtain ⟨-, rfl⟩ | ⟨-, rfl⟩ | ⟨-, rfl⟩ := execBtnPoll_cases h
  · exact s.pollIdle_keepsOffer l
  · exact s.pollPressed_keepsOffer l
  · exact s.pollAwait_keepsOffer l

theorem execEncPoll_keepsOffer {a b : Bool} (h : execEncPoll a b s = .next t) :
    t.pstate = s.pstate ∧ t.pwlen = s.pwlen := by
  injection h with h
  rw [← h]
  split
  · exact s.pollEncoder_keepsOffer a b
  · exact ⟨rfl, rfl⟩

/-! ## The transitions -/

theorem State.computeSample_pstate (hp : s.pstate = .compute) (hl : s.legalIndex = true) :
    s.computeSample.pstate = if s.pidx.toNat + 1 = s.pn.toNat then .wrBass else .compute := by
  obtain ⟨hlt, hle⟩ := s.legalIndex_iff.mp hl
  by_cases hlast : s.pidx.toNat + 1 = s.pn.toNat
  · rw [computeSample_last hlast, if_pos hlast]
  · rw [computeSample_more hlast (by omega), if_neg hlast]
    exact hp

/-- Every instruction moves `PSTATE` as the table says; those that the table does not name leave it by definition. -/
theorem exec_pstate {i : Instr} (h : exec i s = .next t) : t.pstate = pstateAfter i s := by
  cases i
  case frame len =>
    obtain ⟨-, hlen, rfl⟩ | ⟨hp, h2, h1, -, rfl⟩ | ⟨hp, rfl⟩ := execFrame_cases h
    · exact (if_neg fun hacc => by omega).symm
    · exact (if_pos ⟨hp, h2, h1⟩).symm
    · exact (if_neg fun hacc => hp hacc.1).symm
  case mute =>
    obtain ⟨hp, rfl⟩ | ⟨hp, rfl⟩ := execMute_cases h
    · exact (if_pos hp).symm
    · exact (if_neg hp).symm
  case bassAck =>
    obtain ⟨hp, -, rfl⟩ := execBassAck_cases h
    exact (if_pos hp).symm
  case midAck =>
    obtain ⟨hp, rfl⟩ := execMidAck_cases h
    exact (if_pos hp).symm
  case sampleStep =>
    obtain ⟨hp, hl, rfl⟩ | ⟨hp, rfl⟩ := execSampleStep_cases h
    · simp [State.computeSample_pstate hp hl, pstateAfter, hp]
    · exact (if_neg fun hacc => hp hacc.1).symm
  case btnPoll l => exact (execBtnPoll_keepsOffer h).1
  case encPoll a b => exact (execEncPoll_keepsOffer h).1
  case bandEval x =>
    obtain ⟨-, rfl⟩ := execBandEval_cases h
    exact s.writeBands_pstate x
  all_goals
    injection h with h
    exact h ▸ rfl

/-! ## Acknowledgements outside their wait -/

theorem execBassAck_stray (hp : s.pstate ≠ .wrBass) : execBassAck s = .refused .strayBassAck := by
  unfold execBassAck
  cases h : s.pstate
  case wrBass => exact absurd h hp
  all_goals rfl

theorem execMidAck_stray (hp : s.pstate ≠ .wrMid) : execMidAck s = .refused .strayMidAck := by
  unfold execMidAck
  cases h : s.pstate
  case wrMid => exact absurd h hp
  all_goals rfl

/-! ## The instruction a step runs -/

theorem serveFrame_signal {sig : Signal} (h : (serveFrame s).1 = some sig) : s.pstate = .idle ∧ ∃ w, sig = .opw w := by
  unfold serveFrame at h
  split at h
  · next hp _ =>
    injection h with h
    exact ⟨hp, _, h.symm⟩
  · cases h

theorem serveMute_signal {sig : Signal} (h : (serveMute s).1 = some sig) : s.pstate = .idle ∧ ∃ w, sig = .opw w := by
  unfold serveMute at h
  split at h
  · next hp _ =>
    injection h with h
    exact ⟨hp, _, h.symm⟩
  · cases h

/-- A step that is no RESET takes P's self-step or an operation word, and the word is the one issued unless P is idle, when
it may be a kept one. -/
theorem fetch_word_or_selfStep {sig : Signal} (h : (fetch s).1 = some sig) (hr : s.resetNext = false) :
    sig = .selfStep ∨ ∃ w, sig = .opw w ∧ (s.pstate = .idle ∨ ∃ data rest, s.agenda = .issue w data :: rest) := by
  have served (hs : s.pstate = .idle ∧ ∃ w, sig = .opw w) :
      sig = .selfStep ∨ ∃ w, sig = .opw w ∧ (s.pstate = .idle ∨ ∃ data rest, s.agenda = .issue w data :: rest) := by
    obtain ⟨hp, w, hw⟩ := hs
    exact .inr ⟨w, hw, .inl hp⟩
  unfold fetch at h
  split at h
  · unfold autonomous at h
    split at h
    · injection h with h
      exact .inl h.symm
    · exact served (serveFrame_signal h)
    · exact served (serveMute_signal h)
    · split at h
      · exact served (serveFrame_signal (s := { s with freePick := s.freePick + 1 }) h)
      · exact served (serveMute_signal (s := { s with freePick := s.freePick + 1 }) h)
    · cases h
  · next w data rest ha =>
    unfold issueWord at h
    split at h
    · next hp _ => exact served ⟨hp, (serveFrame_signal h).2⟩
    · injection h with h
      exact .inr ⟨w, h.symm, .inr ⟨data, rest, ha⟩⟩
  · next ha =>
    unfold State.resetNext at hr
    rw [ha] at hr
    cases hr
  · injection h with h
    exact .inl h.symm
  · next rest _ => exact served (serveFrame_signal (s := { s with agenda := rest }) h)
  · next rest _ => exact served (serveMute_signal (s := { s with agenda := rest }) h)

theorem fetch_pstate (s : State) : (fetch s).2.pstate = s.pstate := by
  obtain ⟨ag, dp, hf, hm, fp, heq⟩ := fetch_eq s
  rw [heq]

/-- A step that is no RESET changes nothing but what the schedule prepared, or runs an instruction that is no RESET: the
issued one, unless P is idle or it is P's self-step. -/
theorem step_runs (h : step s = .next t) (hr : s.resetNext = false) :
    t = (fetch s).2 ∨ ∃ i, exec i (fetch s).2 = .next t ∧ (∀ a0, i ≠ .reset a0) ∧
      (i = .sampleStep ∨ s.pstate = .idle ∨ ∃ w data rest, s.agenda = .issue w data :: rest ∧ decodeWord w = .ok i) := by
  obtain ⟨sig, i, hsig, hd, hexec⟩ | ⟨-, rfl⟩ := step_cases h
  · right
    obtain rfl | ⟨w, rfl, hsrc⟩ := fetch_word_or_selfStep hsig hr
    · injection hd with hd
      exact ⟨i, hexec, hd ▸ nofun, .inl hd.symm⟩
    · obtain ⟨hreset, -⟩ := decodeWord_isOperation hd
      obtain hp | ⟨data, rest, ha⟩ := hsrc
      · exact ⟨i, hexec, hreset, .inr (.inl hp)⟩
      · exact ⟨i, hexec, hreset, .inr (.inr ⟨w, data, rest, ha, hd⟩)⟩
  · exact .inl rfl

/-! ## The obligations -/

/-- In a sink wait, only the matching acknowledgement and RESET move `PSTATE`. -/
theorem pstateAfter_of_wrBass {i : Instr} (hp : s.pstate = .wrBass) (hreset : ∀ a0, i ≠ .reset a0) (hack : i ≠ .bassAck) :
    pstateAfter i s = .wrBass := by
  cases i
  case reset a0 => exact absurd rfl (hreset a0)
  case bassAck => exact absurd rfl hack
  all_goals simp [pstateAfter, hp]

theorem pstateAfter_of_wrMid {i : Instr} (hp : s.pstate = .wrMid) (hreset : ∀ a0, i ≠ .reset a0) (hack : i ≠ .midAck) :
    pstateAfter i s = .wrMid := by
  cases i
  case reset a0 => exact absurd rfl (hreset a0)
  case midAck => exact absurd rfl hack
  all_goals simp [pstateAfter, hp]

/-- A word is the encoding of what it decodes to. -/
theorem eq_of_decodeWord {w v : Word} {i : Instr} (hw : decodeWord w = .ok i) (hv : decodeWord v = .ok i) : w = v := by
  obtain ⟨hencw, -⟩ := decodedWordEncodesBack w i hw
  obtain ⟨hencv, -⟩ := decodedWordEncodesBack v i hv
  injection hencw.symm.trans hencv

/-- While P is busy, a step runs no operation but the issued one and P's self-step. -/
theorem step_pstate_of_not_issued {w : Word} {i : Instr} (h : step s = .next t) (hr : s.resetNext = false)
    (hbusy : s.pstate ≠ .idle) (hw : decodeWord w = .ok i) (hne : ∀ data rest, s.agenda ≠ .issue w data :: rest) :
    t.pstate = s.pstate ∨ ∃ j, t.pstate = pstateAfter j (fetch s).2 ∧ (∀ a0, j ≠ .reset a0) ∧ j ≠ i := by
  obtain rfl | ⟨j, hexec, hreset, hsrc⟩ := step_runs h hr
  · exact .inl (fetch_pstate s)
  · refine .inr ⟨j, exec_pstate hexec, hreset, ?_⟩
    rintro rfl
    obtain rfl | hidle | ⟨v, data, rest, ha, hv⟩ := hsrc
    · obtain ⟨-, -, -, -, -, hself⟩ := decodeWord_isOperation hw
      exact hself rfl
    · exact hbusy hidle
    · exact hne data rest (eq_of_decodeWord hv hw ▸ ha)

end

/-- Settles O29: the transitions by `exec_pstate`, then what is held, refused or waits. -/
theorem sequencerTransitions : Obligations.SequencerTransitions :=
  ⟨fun _ _ _ => exec_pstate, fun _ hp => ⟨fun _ => execFrame_busy hp, execMute_busy hp⟩, fun _ => execBassAck_stray,
    fun _ => execMidAck_stray, fun _ => execSampleStep_waits⟩

/-- Settles O30: in a sink wait P is busy, and only the acknowledgement's own word decodes to it. -/
theorem sinkWaitEndsOnlyByItsAcknowledgement : Obligations.SinkWaitEndsOnlyByItsAcknowledgement := by
  refine fun s t h hr => ⟨fun hp hne => ?_, fun hp hne => ?_⟩
  · obtain hkept | ⟨j, ht, hreset, hj⟩ := step_pstate_of_not_issued (i := .bassAck) h hr (hp ▸ nofun) rfl hne
    · exact hkept.trans hp
    · exact ht.trans (pstateAfter_of_wrBass ((fetch_pstate s).trans hp) hreset hj)
  · obtain hkept | ⟨j, ht, hreset, hj⟩ := step_pstate_of_not_issued (i := .midAck) h hr (hp ▸ nofun) rfl hne
    · exact hkept.trans hp
    · exact ht.trans (pstateAfter_of_wrMid ((fetch_pstate s).trans hp) hreset hj)

end Sys2Proof.Machine
end

section
/-! SUPPORT. The sink writes as the history shows them (42_pipeline.md R159), and the obligation that they come in pairs. -/

namespace Sys2Proof.Machine

theorem sinkWrites_append (h es : List Output) : sinkWrites (h ++ es) = sinkWrites h ++ sinkWrites es :=
  List.filterMap_append

theorem writePairs_append (ns ms : List Nat) : writePairs (ns ++ ms) = writePairs ns ++ writePairs ms :=
  List.flatMap_append

/-- Only MUTE, SAMPLE_STEP and BASS_ACK emit sink writes (30_encoding.md R96). -/
theorem sinkWrites_eq_nil {i : Instr} {es : List Output} (hes : ∀ e ∈ es, mayEmit i e) (hmute : i ≠ .mute)
    (hstep : i ≠ .sampleStep) (hack : i ≠ .bassAck) : sinkWrites es = [] := by
  refine List.filterMap_eq_nil_iff.mpr fun e he => ?_
  have hmay := hes e he
  match e with
  | .sinkWrite .bass _ => exact absurd hmay.1 (by simp [hmute, hstep])
  | .sinkWrite .mid _ => exact absurd hmay.1 hack
  | .notify _ | .cmd _ _ | .session _ => rfl

namespace State.handshake

variable {s t : State}

theorem iff_of_ne_wrBass (hp : s.pstate ≠ .wrBass) :
    s.handshake ↔ ∃ ns, sinkWrites s.history = writePairs ns := by
  simp [State.handshake, hp]

theorem iff_of_wrBass (hp : s.pstate = .wrBass) :
    s.handshake ↔ ∃ ns, sinkWrites s.history = writePairs ns ++ [(.bass, s.pwlen.toNat)] := by
  simp [State.handshake, hp]

/-- Nothing is owed to the sinks before and after, and no sink write comes. -/
theorem unowed (h : s.handshake) (hs : s.pstate ≠ .wrBass) (ht : t.pstate ≠ .wrBass) (hh : t.history = s.history) :
    t.handshake := by
  rw [iff_of_ne_wrBass ht, hh]
  exact (iff_of_ne_wrBass hs).mp h

/-- A bass write of `PWLEN` bytes opens a pair. -/
theorem opened (h : s.handshake) (hs : s.pstate ≠ .wrBass) (ht : t.pstate = .wrBass) {bytes : List Byte}
    (hh : t.history = s.history ++ [.sinkWrite .bass bytes]) (hlen : bytes.length = t.pwlen.toNat) : t.handshake := by
  obtain ⟨ns, hns⟩ := (iff_of_ne_wrBass hs).mp h
  refine (iff_of_wrBass ht).mpr ⟨ns, ?_⟩
  rw [hh, sinkWrites_append, hns, ← hlen]
  rfl

/-- A mid write of `PWLEN` bytes closes the pair. -/
theorem closed (h : s.handshake) (hs : s.pstate = .wrBass) (ht : t.pstate ≠ .wrBass) {bytes : List Byte}
    (hh : t.history = s.history ++ [.sinkWrite .mid bytes]) (hlen : bytes.length = s.pwlen.toNat) : t.handshake := by
  obtain ⟨ns, hns⟩ := (iff_of_wrBass hs).mp h
  refine (iff_of_ne_wrBass ht).mpr ⟨ns ++ [s.pwlen.toNat], ?_⟩
  rw [hh, sinkWrites_append, hns, writePairs_append, List.append_assoc, ← hlen]
  rfl

/-- Where P's offer stands and no sink write comes, the pairs stand. -/
theorem kept (h : s.handshake) (hoffer : t.pstate = s.pstate ∧ t.pwlen = s.pwlen) {es : List Output}
    (hh : t.history = s.history ++ es) (hes : sinkWrites es = []) : t.handshake := by
  obtain ⟨hp, hl⟩ := hoffer
  obtain ⟨ns, hns⟩ := h
  refine ⟨ns, ?_⟩
  rw [hh, sinkWrites_append, hes, List.append_nil, hp, hl]
  exact hns

theorem computeSample (h : s.handshake) (hp : s.pstate = .compute) (hl : s.legalIndex = true) :
    s.computeSample.handshake := by
  obtain ⟨hlt, hle⟩ := s.legalIndex_iff.mp hl
  have hs : s.pstate ≠ .wrBass := hp ▸ nofun
  by_cases hlast : s.pidx.toNat + 1 = s.pn.toNat
  · rw [computeSample_last hlast]
    refine h.opened hs rfl rfl ?_
    rw [State.bytesLE_length, BitVec.toNat_ofNat]
    omega
  · rw [computeSample_more hlast (by omega)]
    exact h.unowed hs hs ((s.clockFilter s.sampleInput).writeBands_history s.sampleInput)

/-- Every instruction but RESET keeps the pairs; those that touch no sink write, `PSTATE` or `PWLEN` do so by definition. -/
theorem exec {i : Instr} (h : s.handshake) (ht : Machine.exec i s = .next t) (hreset : ∀ a0, i ≠ .reset a0) :
    t.handshake := by
  cases i
  case reset a0 => exact absurd rfl (hreset a0)
  case frame len =>
    obtain ⟨-, -, rfl⟩ | ⟨hp, -, -, -, rfl⟩ | ⟨-, rfl⟩ := execFrame_cases ht
    · exact h
    · exact h.unowed (hp ▸ nofun) nofun (s.acceptFrame_history len)
    · exact h
  case mute =>
    obtain ⟨hp, rfl⟩ | ⟨-, rfl⟩ := execMute_cases ht
    · exact h.opened (hp ▸ nofun) rfl s.startMute_history List.length_replicate
    · exact h
  case bassAck =>
    obtain ⟨hp, hl, rfl⟩ := execBassAck_cases ht
    rw [legalPwlen_iff] at hl
    refine h.closed hp nofun rfl ?_
    rw [State.bytesLE_length]
    omega
  case midAck =>
    obtain ⟨hp, rfl⟩ := execMidAck_cases ht
    exact h.unowed (hp ▸ nofun) nofun rfl
  case sampleStep =>
    obtain ⟨hp, hl, rfl⟩ | ⟨-, rfl⟩ := execSampleStep_cases ht
    · exact h.computeSample hp hl
    · exact h
  case btnPoll l =>
    obtain ⟨es, hh, hes⟩ := EmitsByTable.exec ht
    exact h.kept (execBtnPoll_keepsOffer ht) hh (sinkWrites_eq_nil hes nofun nofun nofun)
  case encPoll a b =>
    obtain ⟨es, hh, hes⟩ := EmitsByTable.exec ht
    exact h.kept (execEncPoll_keepsOffer ht) hh (sinkWrites_eq_nil hes nofun nofun nofun)
  case bandEval x =>
    obtain ⟨-, rfl⟩ := execBandEval_cases ht
    exact h
  all_goals
    injection ht with ht
    exact ht ▸ h

/-- What the schedule prepares is nothing the pairs speak of. -/
theorem fetch (h : s.handshake) : (Machine.fetch s).2.handshake := by
  obtain ⟨ag, dp, hf, hm, fp, heq⟩ := fetch_eq s
  rw [heq]
  exact h

end State.handshake

/-- Settles O58: by the instruction a step runs, in the state that the schedule prepared. -/
theorem sinkWritesComeInPairs : Obligations.SinkWritesComeInPairs := by
  intro s t h ht hr
  obtain rfl | ⟨i, hexec, hreset, -⟩ := step_runs ht hr
  · exact h.fetch
  · exact h.fetch.exec hexec hreset

end Sys2Proof.Machine
end

section
/-! SUPPORT. What MUTE, the acknowledgements, LPF_CLEAR and SAMPLE_STEP leave unchanged, and the obligations that say what each
of P's operations does (42_pipeline.md R153 to R158). -/

namespace Sys2Proof.Machine

/-! ## The frames of P's operations -/

theorem KeepsRegs.mono {rs rs' : List Reg} {s t : State} (h : KeepsRegs rs s t) (hsub : rs ⊆ rs') : KeepsRegs rs' s t :=
  fun r hr => h r fun hmem => hr (hsub hmem)

section

variable (s : State)

/-- A move of `PSTATE` with or without an event leaves every other register. -/
theorem keepsRegs_move (p : PState) (h : List Output) : KeepsRegs [.PSTATE] s { s with pstate := p, history := h } := by
  intro r hr
  cases r
  case PSTATE => simp at hr
  all_goals rfl

theorem keepsBuffers_move (p : PState) (h : List Output) : KeepsBuffers s { s with pstate := p, history := h } := by
  intro b off
  cases b <;> rfl

theorem keepsPorts_move (p : PState) (h : List Output) : KeepsPorts s { s with pstate := p, history := h } :=
  ⟨rfl, rfl, rfl, rfl, rfl, rfl⟩

theorem keepsRegs_startMute : KeepsRegs [.PSTATE, .PWLEN] s s.startMute := by
  intro r hr
  cases r
  case PSTATE | PWLEN => simp at hr
  all_goals rfl

theorem keepsBytes_startMute (b : Buf) : KeepsBytes b 0 8192 s s.startMute := by
  intro off hoff
  rw [State.readByte_startMute]
  exact if_neg (by omega)

theorem keepsBytes_startMute_inBuf : KeepsBytes .inBuf 0 0 s s.startMute := by
  intro off _
  rw [State.readByte_startMute]
  exact if_neg (by simp)

theorem keepsPorts_startMute : KeepsPorts s s.startMute := ⟨rfl, rfl, rfl, rfl, rfl, rfl⟩

theorem keepsRegs_computeSample : KeepsRegs [.LP_Y, .PIDX, .PWLEN, .PSTATE] s s.computeSample := by
  intro r hr
  cases r
  case LP_Y | PIDX | PWLEN | PSTATE => simp at hr
  all_goals simp [State.reg, State.volByte, State.encVolByte]

theorem keepsBytes_computeSample (b : Buf) :
    KeepsBytes b (2 * s.pidx.toNat) (2 * s.pidx.toNat + 2) s s.computeSample := fun off hoff =>
  s.readByte_computeSample_of_ne b off (.inr hoff)

theorem keepsBytes_computeSample_inBuf : KeepsBytes .inBuf 0 0 s s.computeSample := fun off _ =>
  s.readByte_computeSample_of_ne .inBuf off (.inl rfl)

theorem keepsPorts_computeSample : KeepsPorts s s.computeSample :=
  ⟨s.computeSample_dataPort, s.computeSample_heldFrames, s.computeSample_heldMutes, s.computeSample_agenda,
    s.computeSample_freeBuf, s.computeSample_freePick⟩

end

/-! ## One sample -/

section

variable {s : State}

theorem State.computeSample_pidx_toNat (h : s.pidx.toNat < s.pn.toNat) :
    s.computeSample.pidx.toNat = s.pidx.toNat + 1 := by
  have hlt := s.pn.isLt
  rw [State.computeSample_pidx, BitVec.toNat_add, BitVec.toNat_ofNat]
  omega

/-- Before the last sample P goes on computing and offers nothing. -/
theorem State.computeSample_goesOn (hp : s.pstate = .compute) (h : s.pidx.toNat + 1 < s.pn.toNat)
    (hle : s.pn.toNat ≤ 4096) :
    s.computeSample.pstate = .compute ∧ s.computeSample.pwlen = s.pwlen ∧ s.computeSample.history = s.history := by
  rw [computeSample_more (by omega) (by omega)]
  exact ⟨hp, (s.clockFilter s.sampleInput).writeBands_pwlen s.sampleInput,
    (s.clockFilter s.sampleInput).writeBands_history s.sampleInput⟩

/-- The bytes of a buffer that SAMPLE_STEP offers are those it leaves. -/
theorem State.bytesLE_computeSample (s : State) (b : Buf) (n : Nat) :
    ((s.clockFilter s.sampleInput).writeBands s.sampleInput).bytesLE b n = s.computeSample.bytesLE b n := by
  refine congrArg bytesOf (List.map_congr_left fun i _ => ?_)
  unfold State.readSample
  rw [State.readByte_computeSample, State.readByte_computeSample]

/-- After the last sample P offers the whole bass buffer. -/
theorem State.computeSample_offers (h : s.pidx.toNat + 1 = s.pn.toNat) (hle : s.pn.toNat ≤ 4096) :
    s.computeSample.pstate = .wrBass ∧ s.computeSample.pwlen.toNat = 2 * s.pn.toNat ∧
      s.computeSample.history = s.history ++ [.sinkWrite .bass (s.computeSample.bytesLE .bassBuf s.pn.toNat)] := by
  rw [← s.bytesLE_computeSample, computeSample_last h]
  refine ⟨rfl, ?_, rfl⟩
  rw [BitVec.toNat_ofNat]
  omega

end

/-! ## The obligations -/

/-- Settles O23: the instruction is enabled and its effect is `computeSample`, whose samples, offer and frame the lemmas above
give. -/
theorem sampleStepComputesOneSample : Obligations.SampleStepComputesOneSample := by
  intro s hp hlt hle
  refine ⟨lpfCtlDriven_sampleStep hp, beq_iff_eq.mpr hp, s.computeSample, s.sampleInput,
    execSampleStep_enabled hp (s.legalIndex_iff.mpr ⟨hlt, hle⟩), rfl, s.computeSample_lpY,
    s.readSample_computeSample_bass.trans (bass16_eq _ _), ?_, State.computeSample_pidx_toNat hlt,
    fun hmore => State.computeSample_goesOn hp hmore hle, fun hlast => ?_, keepsBytes_computeSample s .bassBuf,
    keepsBytes_computeSample s .midBuf, keepsBytes_computeSample_inBuf s, keepsRegs_computeSample s,
    keepsPorts_computeSample s⟩
  · rw [State.computeSample_lpY]
    exact s.readSample_computeSample_mid.trans (mid16_eq _ _ _)
  · obtain ⟨hp', hlen, hh⟩ := State.computeSample_offers hlast hle
    exact ⟨hp', hlen, _, hh, State.bytesLE_length _ _ _, fun k hk => State.bytesLE_getElem? _ _ _ k hk⟩

/-- Settles O25: the effect is `offerMid`, whose bytes are whole samples since `PWLEN` is even. -/
theorem bassAckOffersTheMidBuffer : Obligations.BassAckOffersTheMidBuffer := by
  refine fun s => ⟨fun hp heven h2 hle => ?_, execBassAck_stray⟩
  have hhalf : 2 * (s.pwlen.toNat / 2) = s.pwlen.toNat := by omega
  refine ⟨s.offerMid, _, execBassAck_enabled hp ((legalPwlen_iff _).mpr ⟨heven, h2, hle⟩), rfl, rfl, ?_, fun k hk => ?_,
    keepsRegs_move s _ _, keepsBuffers_move s _ _, keepsPorts_move s _ _⟩
  · rw [State.bytesLE_length, hhalf]
  · exact s.bytesLE_getElem? .midBuf _ k (hhalf.symm ▸ hk)

/-- Settles O26: the effect is a move to `P_IDLE`. -/
theorem midAckReturnsToIdle : Obligations.MidAckReturnsToIdle := fun s =>
  ⟨fun hp => ⟨_, execMidAck_enabled hp, rfl, keepsRegs_move s _ s.history, keepsBuffers_move s _ s.history,
    keepsPorts_move s _ s.history, rfl⟩, execMidAck_stray⟩

/-- Settles O27: the effect is `startMute`, whose bytes, event and frame its lemmas give. -/
theorem muteZeroesBothBuffers : Obligations.MuteZeroesBothBuffers := by
  refine fun s hp => ⟨s.startMute, execMute_idle hp, rfl, by rw [State.startMute_pwlen]; rfl, fun off hoff => ?_,
    s.startMute_history, keepsBytes_startMute_inBuf s, keepsBytes_startMute s .bassBuf, keepsBytes_startMute s .midBuf,
    keepsRegs_startMute s, keepsPorts_startMute s⟩
  rw [State.readByte_startMute, State.readByte_startMute]
  exact ⟨if_pos ⟨nofun, hoff⟩, if_pos ⟨nofun, hoff⟩⟩

/-- Settles O28: the effect is a write of `LP_Y` with +0.0. -/
theorem lpfClearZeroesTheFilterOnly : Obligations.LpfClearZeroesTheFilterOnly := fun s =>
  ⟨rfl, s.clearFilter, rfl, rfl, keepsRegs_writeLpY s _, keepsBuffers_writeLpY s _, keepsPorts_writeLpY s _, rfl⟩

/-- Settles O22: the two clauses of FRAME that answer the state they find. -/
theorem droppedOrEmptyFrameHasNoEffect : Obligations.DroppedOrEmptyFrameHasNoEffect := fun _ _ hp =>
  ⟨execFrame_dropped hp, execFrame_empty hp⟩

end Sys2Proof.Machine
end

section
/-! SUPPORT. The volume factor as one rounding of an exact quotient (42_pipeline.md R152), and the obligation that says so. -/

namespace Sys2Proof.Machine

/-! ## Roundings of the same number -/

/-- A quotient rounds as its expansion by a common factor does. -/
theorem RoundsTo.of_expanded {num : Int} {den k : Nat} {r : F32} (hk : 0 < k) (h : RoundsTo (num * k) (den * k) r) :
    RoundsTo num den r := by
  have hdist (c : F32) : (fpVal c * ((den * k : Nat) : Int) - num * k).natAbs = (fpVal c * den - num).natAbs * k := by
    rw [Nat.cast_mul, ← Int.mul_assoc, ← Int.sub_mul, Int.natAbs_mul, Int.natAbs_natCast]
  obtain ⟨hfin, hnear⟩ := h
  refine ⟨hfin, fun c hc => ?_⟩
  have hc := hnear c hc
  rw [hdist, hdist] at hc
  exact ⟨Nat.le_of_mul_le_mul_right hc.1 hk, fun heq => hc.2 (congrArg (· * k) heq)⟩

/-- An even value that equals a rounded one is rounded as well. -/
theorem RoundsTo.of_fpVal_eq {num : Int} {den : Nat} {q r : F32} (h : RoundsTo num den q) (hfin : fpIsFinite r = true)
    (heven : r.getLsbD 0 = false) (hval : fpVal r = fpVal q) : RoundsTo num den r := by
  obtain ⟨-, hnear⟩ := h
  refine ⟨hfin, fun c hc => ?_⟩
  rw [hval]
  exact ⟨(hnear c hc).1, fun _ _ => heven⟩

/-- The minimum with 1.0 leaves a value that is at most 1.0 rounded as it was. -/
theorem RoundsTo.fpMin_fpOne {num : Int} {den : Nat} {q : F32} (h : RoundsTo num den q) (hle : fpVal q ≤ fpVal fpOne) :
    RoundsTo num den (fpMin fpOne q) := by
  unfold fpMin
  split
  case isTrue => exact h
  case isFalse hge =>
    rw [fpLt_iff (fpIsNaN_of_finite h.1).1 rfl] at hge
    exact h.of_fpVal_eq rfl rfl (by omega)

/-- Rounding does not pass a finite value that bounds the exact one. -/
theorem RoundsTo.fpVal_le {num : Int} {den : Nat} {r c : F32} (hden : 0 < den) (h : RoundsTo num den r)
    (hc : fpIsFinite c = true) (hle : num ≤ fpVal c * den) : fpVal r ≤ fpVal c := by
  obtain ⟨hnear, -⟩ := h.2 c hc
  by_contra hlt
  have hmul : fpVal c * den < fpVal r * den := Int.mul_lt_mul_of_pos_right (by omega) (by omega)
  omega

/-! ## The factor -/

theorem fpVal_fpOne : fpVal fpOne = 2 ^ 149 := by decide +kernel

theorem volScaled_eq (v : BitVec 7) : volScaled v = v.toNat * 500 / 127 := by
  rw [volScaled, Nat.mul_comm]
  rfl

/-- A quotient by 500.0 is the nearest value to the exact one. -/
theorem roundsTo_fpDiv_fp500 {n : Nat} (hn : n ≤ 500) : RoundsTo (n * 2 ^ 149) 500 (fpDiv (fpOfInt n) fp500) := by
  have hval : fpVal (fpOfInt n) = n * 2 ^ 149 := fpVal_fpOfInt (by omega)
  have h500 : fpVal fp500 = ((500 * 2 ^ 149 : Nat) : Int) := by decide +kernel
  obtain ⟨hdiv, -⟩ := divRoundsToNearestEven (fpOfInt n) fp500 (fpIsFinite_fpOfInt (by omega)) rfl
  obtain ⟨hround, -⟩ := hdiv (by rw [h500]; decide)
  rw [h500, hval, Int.sign_natCast_of_ne_zero (by decide), Int.mul_one, Int.natAbs_natCast] at hround
  refine .of_expanded (Nat.two_pow_pos 149) (hround ?_)
  have hmax : 500 * 2 ^ 149 * 2 ^ 149 < overflowMag * (500 * 2 ^ 149) := by decide +kernel
  refine Nat.lt_of_le_of_lt (Nat.mul_le_mul_right _ ?_) hmax
  omega

/-- Settles O14: the quotient is rounded once and is at most 1.0, so the minimum leaves it. -/
theorem volumeFactorIsTheRoundedQuotient : Obligations.VolumeFactorIsTheRoundedQuotient := by
  intro v
  have hv := v.isLt
  have hround : RoundsTo ((v.toNat * 500 / 127 : Nat) * 2 ^ 149) 500 (volFactor v) := by
    unfold volFactor
    rw [volScaled_eq]
    have hq := roundsTo_fpDiv_fp500 (n := v.toNat * 500 / 127) (by omega)
    refine hq.fpMin_fpOne (hq.fpVal_le (by decide) rfl ?_)
    rw [fpVal_fpOne]
    omega
  obtain ⟨hsign, -, hmag⟩ := fpInUnit_volFactor v
  refine ⟨hround, hsign, ?_⟩
  rw [fpVal_of_not_sign hsign, fpVal_of_not_sign rfl]
  omega

end Sys2Proof.Machine
end

section
/-! SUPPORT. The words that the ports keep (42_pipeline.md R150): a port's turn runs the oldest at an idle P and leaves it
otherwise; and the obligation that says so. -/

namespace Sys2Proof.Machine

section

variable {s u : State}

theorem step_of_fetch_none (hf : fetch s = (none, u)) : step s = .next u := by
  unfold step
  rw [hf]

/-- The audio source's port has its turn, at an idle P. -/
theorem step_of_serveFrame {c : FrameCall} {cs : List FrameCall} (hf : fetch s = serveFrame u) (hp : u.pstate = .idle)
    (hh : u.heldFrames = c :: cs) : step s = exec (.frame c.len) { u with heldFrames := cs, dataPort := c.data } := by
  refine (step_of_fetch (sig := encode (.frame c.len)) ?_).trans (runSignal_of_decode_ok (decode_encode_frame c.len))
  simp only [hf, serveFrame, hp, hh]

/-- The session layer's port has its turn, at an idle P. -/
theorem step_of_serveMute {n : Nat} (hf : fetch s = serveMute u) (hp : u.pstate = .idle) (hh : u.heldMutes = n + 1) :
    step s = exec .mute { u with heldMutes := n } := by
  refine (step_of_fetch (sig := encode .mute) ?_).trans (runSignal_of_decode_ok decode_encode_mute)
  simp only [hf, serveMute, hp, hh]

theorem serveFrame_waits (h : s.pstate ≠ .idle ∨ s.heldFrames = []) : serveFrame s = (none, s) := by
  unfold serveFrame
  split
  · next hp hh => simp [hp, hh] at h
  · rfl

theorem serveMute_waits (h : s.pstate ≠ .idle ∨ s.heldMutes = 0) : serveMute s = (none, s) := by
  unfold serveMute
  split
  · next hp hh => simp [hp, hh] at h
  · rfl

/-- Which port has its turn when the agenda is empty and P is idle. -/
theorem fetch_idle (ha : s.agenda = []) (hp : s.pstate = .idle) :
    (∀ c cs, s.heldFrames = c :: cs → s.heldMutes = 0 → fetch s = serveFrame s) ∧
    (∀ n, s.heldFrames = [] → s.heldMutes = n + 1 → fetch s = serveMute s) ∧
    (∀ c cs n, s.heldFrames = c :: cs → s.heldMutes = n + 1 →
      fetch s = serveFrame { s with freePick := s.freePick + 1 } ∨
      fetch s = serveMute { s with freePick := s.freePick + 1 }) := by
  refine ⟨fun c cs hf hm => ?_, fun n hf hm => ?_, fun c cs n hf hm => ?_⟩
  · simp only [fetch, ha, autonomous, hp, hf, hm]
  · simp only [fetch, ha, autonomous, hp, hf, hm]
  · cases hpick : Config.heldPick s.freePick
    · right
      simp [fetch, ha, autonomous, hp, hf, hm, hpick]
    · left
      simp [fetch, ha, autonomous, hp, hf, hm, hpick]

end

/-- Settles O9: the port whose turn it is serves its oldest word at an idle P, and else waits. -/
theorem keptWordIsServedWhenIdle : Obligations.KeptWordIsServedWhenIdle := by
  refine fun s => ⟨fun ha hp => ?_, fun rest ha => ?_, fun rest ha => ?_⟩
  · obtain ⟨hframe, hmute, hboth⟩ := fetch_idle ha hp
    refine ⟨fun c cs hf hm => step_of_serveFrame (hframe c cs hf hm) hp hf,
      fun n hf hm => step_of_serveMute (hmute n hf hm) hp hm, fun c cs n hf hm => ?_⟩
    obtain hturn | hturn := hboth c cs n hf hm
    · exact .inl (step_of_serveFrame (u := { s with freePick := s.freePick + 1 }) hturn hp hf)
    · exact .inr (step_of_serveMute (u := { s with freePick := s.freePick + 1 }) hturn hp hm)
  · have hfetch : fetch s = serveFrame { s with agenda := rest } := by rw [fetch, ha]
    exact ⟨fun c cs hp hf => step_of_serveFrame (u := { s with agenda := rest }) hfetch hp hf,
      fun hwait => step_of_fetch_none (hfetch.trans (serveFrame_waits hwait))⟩
  · have hfetch : fetch s = serveMute { s with agenda := rest } := by rw [fetch, ha]
    exact ⟨fun n hp hm => step_of_serveMute (u := { s with agenda := rest }) hfetch hp hm,
      fun hwait => step_of_fetch_none (hfetch.trans (serveMute_waits hwait))⟩

end Sys2Proof.Machine
end

section
/-! SUPPORT. A frame in flight: the bands that its computed samples and those left give, which no sample step changes; and the
obligations that P computes it unaided and delivers it to both sinks (42_pipeline.md R151 to R155, R159). -/

namespace Sys2Proof.Machine

/-! ## The bands of the frame in flight -/

/-- The first `n` samples of a buffer. -/
def State.samples (s : State) (b : Buf) (n : Nat) : List Sample := (List.range n).map (s.readSample b)

/-- The samples that P has still to compute (42_pipeline.md R153). -/
def State.samplesLeft (s : State) : List Sample :=
  (List.range' s.pidx.toNat (s.pn.toNat - s.pidx.toNat)).map (s.readSample .inBuf)

/-- The two bands of the frame in flight, computed samples before `PIDX` and those left after it, and the filter's value
after the last one. -/
def State.frameResult (s : State) : List Sample × List Sample × F32 :=
  let left := frameBands s.party s.pvf s.lpY s.samplesLeft
  (s.samples .bassBuf s.pidx.toNat ++ left.1, s.samples .midBuf s.pidx.toNat ++ left.2.1, left.2.2)

theorem State.bytesLE_eq (s : State) (b : Buf) (n : Nat) : s.bytesLE b n = bytesOf (s.samples b n) := rfl

@[simp] theorem State.samples_length (s : State) (b : Buf) (n : Nat) : (s.samples b n).length = n := by
  rw [State.samples, List.length_map, List.length_range]

@[simp] theorem State.samplesLeft_length (s : State) : s.samplesLeft.length = s.pn.toNat - s.pidx.toNat := by
  rw [State.samplesLeft, List.length_map, List.length_range']

theorem frameBands_length (party : Bool) (pvf lp : F32) (vs : List Sample) :
    (frameBands party pvf lp vs).1.length = vs.length ∧ (frameBands party pvf lp vs).2.1.length = vs.length := by
  induction vs generalizing lp with
  | nil => exact ⟨rfl, rfl⟩
  | cons v vs ih =>
    obtain ⟨hbass, hmid⟩ := ih (filterNext (scaleSample v pvf) lp)
    exact ⟨congrArg (· + 1) hbass, congrArg (· + 1) hmid⟩

section

variable {s t : State}

theorem State.frameResult_bass_length (h : s.pidx.toNat ≤ s.pn.toNat) : s.frameResult.1.length = s.pn.toNat := by
  obtain ⟨hbass, -⟩ := frameBands_length s.party s.pvf s.lpY s.samplesLeft
  simp only [State.frameResult, List.length_append, hbass, State.samples_length, State.samplesLeft_length]
  omega

theorem State.frameResult_done (h : s.pidx.toNat = s.pn.toNat) :
    s.frameResult = (s.samples .bassBuf s.pn.toNat, s.samples .midBuf s.pn.toNat, s.lpY) := by
  simp [State.frameResult, State.samplesLeft, frameBands, h]

theorem State.readSample_computeSample_of_ne (s : State) {b : Buf} {i : Nat} (h : b = .inBuf ∨ i < s.pidx.toNat) :
    s.computeSample.readSample b i = s.readSample b i := by
  unfold State.readSample
  rw [State.readByte_computeSample_of_ne _ _ _ (h.imp_right (by omega)),
    State.readByte_computeSample_of_ne _ _ _ (h.imp_right (by omega))]

/-- A sample step adds the sample at `PIDX` to those before it. -/
theorem State.samples_computeSample (s : State) (b : Buf) :
    s.computeSample.samples b (s.pidx.toNat + 1) =
      s.samples b s.pidx.toNat ++ [s.computeSample.readSample b s.pidx.toNat] := by
  unfold State.samples
  rw [List.range_succ, List.map_append, List.map_singleton]
  refine congrArg (· ++ _) (List.map_congr_left fun i hi => ?_)
  exact s.readSample_computeSample_of_ne (.inr (List.mem_range.mp hi))

theorem State.samplesLeft_eq_cons (h : s.pidx.toNat < s.pn.toNat) :
    s.samplesLeft = s.readSample .inBuf s.pidx.toNat :: s.computeSample.samplesLeft := by
  have hcount : s.pn.toNat - s.pidx.toNat = s.pn.toNat - (s.pidx.toNat + 1) + 1 := by omega
  unfold State.samplesLeft
  rw [State.computeSample_pidx_toNat h, State.computeSample_pn, hcount, List.range'_succ, List.map_cons]
  exact congrArg (_ :: ·) (List.map_congr_left fun i _ => (s.readSample_computeSample_of_ne (.inl rfl)).symm)

/-- A sample step moves a sample from those left to those computed, and so leaves the bands of the frame. -/
theorem State.frameResult_computeSample (h : s.pidx.toNat < s.pn.toNat) : s.computeSample.frameResult = s.frameResult := by
  unfold State.frameResult
  rw [State.computeSample_pidx_toNat h, State.samples_computeSample, State.samples_computeSample,
    State.readSample_computeSample_bass, State.readSample_computeSample_mid, State.samplesLeft_eq_cons h,
    State.computeSample_party, State.computeSample_pvf, State.computeSample_lpY]
  simp only [frameBands, State.sampleInput, List.append_assoc, List.singleton_append]

/-! ## The self-steps that end a frame -/

/-- The state with other steps still to come (log 5). -/
def State.withAgenda (ag : List Event) (s : State) : State := { s with agenda := ag }

/-- What P leaves when it has computed the frame in flight: the bass write of the whole bass band, the mid band that will
follow it, the filter's last value, and the registers that are not P's to write. -/
structure FrameComputed (s t : State) : Prop where
  pstate : t.pstate = .wrBass
  pwlen : t.pwlen.toNat = 2 * s.pn.toNat
  lpY : t.lpY = s.frameResult.2.2
  mid : t.samples .midBuf s.pn.toNat = s.frameResult.2.1
  history : t.history = s.history ++ [.sinkWrite .bass (bytesOf s.frameResult.1)]
  regs : KeepsRegs [.PSTATE, .PIDX, .PWLEN, .LP_Y] s t

namespace FrameComputed

/-- Which steps are still to come does not matter to a frame. -/
theorem of_agenda {ag : List Event} (h : FrameComputed (s.withAgenda ag) t) : FrameComputed s t :=
  ⟨h.pstate, h.pwlen, h.lpY, h.mid, h.history, h.regs⟩

theorem of_last (h : s.pidx.toNat + 1 = s.pn.toNat) (hle : s.pn.toNat ≤ 4096) : FrameComputed s s.computeSample := by
  have hlt : s.pidx.toNat < s.pn.toNat := by omega
  have hdone := State.frameResult_done (s := s.computeSample)
    (by rw [State.computeSample_pidx_toNat hlt, h, State.computeSample_pn])
  rw [State.frameResult_computeSample hlt, State.computeSample_pn] at hdone
  obtain ⟨hp, hlen, hh⟩ := State.computeSample_offers h hle
  refine ⟨hp, hlen, ?_, ?_, ?_, (keepsRegs_computeSample s).mono (by simp)⟩
  · rw [hdone]
  · rw [hdone]
  · rw [hdone]
    exact hh

theorem of_more (hp : s.pstate = .compute) (h : s.pidx.toNat + 1 < s.pn.toNat) (hle : s.pn.toNat ≤ 4096)
    (ht : FrameComputed s.computeSample t) : FrameComputed s t := by
  obtain ⟨hpstate, hpwlen, hlpY, hmid, hhist, hregs⟩ := ht
  obtain ⟨-, -, hh⟩ := State.computeSample_goesOn hp h hle
  rw [State.frameResult_computeSample (by omega)] at hlpY hmid hhist
  rw [State.computeSample_pn] at hpwlen hmid
  rw [hh] at hhist
  exact ⟨hpstate, hpwlen, hlpY, hmid, hhist,
    fun r hr => (hregs r hr).trans ((keepsRegs_computeSample s).mono (by simp) r hr)⟩

end FrameComputed

/-- P takes its self-step in each of the next `n` steps: the agenda says so, or no event is left (log 6). -/
def State.SelfStepsNext (n : Nat) (rest : List Event) (s : State) : Prop :=
  s.agenda = List.replicate n .pSelf ++ rest ∨ s.agenda = [] ∧ rest = []

theorem step_selfStep {n : Nat} {rest : List Event} (hp : s.pstate = .compute) (hl : s.legalIndex = true)
    (h : s.SelfStepsNext (n + 1) rest) :
    ∃ ag, step s = .next (s.withAgenda ag).computeSample ∧
      (s.withAgenda ag).computeSample.SelfStepsNext n rest := by
  obtain ⟨hsteps, -⟩ := stepWithoutAWord
  have hexec (ag : List Event) : exec .sampleStep (s.withAgenda ag) =
      .next (s.withAgenda ag).computeSample := execSampleStep_enabled hp hl
  obtain ha | ⟨ha, rfl⟩ := h
  · obtain ⟨hself, -⟩ := hsteps s (List.replicate n .pSelf ++ rest)
    exact ⟨_, (hself ha).trans (hexec _), .inl (State.computeSample_agenda _)⟩
  · obtain ⟨-, -, hself, -⟩ := hsteps s []
    exact ⟨s.agenda, (hself ha hp).trans (hexec s.agenda), .inr ⟨(State.computeSample_agenda _).trans ha, rfl⟩⟩

/-- As many self-steps as samples are left compute the frame in flight. -/
theorem runSteps_frame {n : Nat} {rest : List Event} (hp : s.pstate = .compute) (hn : s.pidx.toNat + (n + 1) = s.pn.toNat)
    (hle : s.pn.toNat ≤ 4096) (h : s.SelfStepsNext (n + 1) rest) :
    ∃ t, runSteps (n + 1) s = .next t ∧ t.agenda = rest ∧ FrameComputed s t := by
  induction n generalizing s with
  | zero =>
    obtain ⟨ag, hstep, hag⟩ := step_selfStep hp (s.legalIndex_iff.mpr ⟨by omega, hle⟩) h
    exact ⟨_, runSteps_succ hstep 0, hag.elim id fun hnone => hnone.1.trans hnone.2.symm,
      (FrameComputed.of_last (s := s.withAgenda ag) hn hle).of_agenda⟩
  | succ n ih =>
    obtain ⟨ag, hstep, hag⟩ := step_selfStep hp (s.legalIndex_iff.mpr ⟨by omega, hle⟩) h
    have hmore : s.pidx.toNat + 1 < s.pn.toNat := by omega
    obtain ⟨hp', -⟩ := State.computeSample_goesOn (s := s.withAgenda ag) hp hmore hle
    have hpidx : (s.withAgenda ag).computeSample.pidx.toNat = s.pidx.toNat + 1 :=
      State.computeSample_pidx_toNat (s := s.withAgenda ag) (Nat.lt_of_succ_lt hmore)
    have hpn : (s.withAgenda ag).computeSample.pn = s.pn := State.computeSample_pn _
    obtain ⟨t, hrun, hrest, ht⟩ := ih hp' (by rw [hpidx, hpn]; omega) (by rwa [hpn]) hag
    exact ⟨t, (runSteps_succ hstep _).trans hrun, hrest,
      (FrameComputed.of_more (s := s.withAgenda ag) hp hmore hle ht).of_agenda⟩

end

/-- Settles O32: the self-steps compute the frame, whose bass band has a sample for each of `PN`. -/
theorem computingFinishesUnaided : Obligations.ComputingFinishesUnaided := by
  intro s hp hlt hle ha
  obtain ⟨n, hn⟩ : ∃ n, s.pn.toNat - s.pidx.toNat = n + 1 := ⟨s.pn.toNat - s.pidx.toNat - 1, by omega⟩
  obtain ⟨t, hrun, -, ht⟩ := runSteps_frame (n := n) hp (by omega) hle (.inr ⟨ha, rfl⟩)
  refine ⟨t, _, hn ▸ hrun, ht.pstate, ht.history, ?_, ht.regs⟩
  rw [bytesOf_length, State.frameResult_bass_length (Nat.le_of_lt hlt)]

/-! ## From FRAME to both acknowledgements -/

section

variable {s : State} {len : BitVec 24}

/-- An accepted frame leaves all the samples of its data bytes to compute. -/
theorem State.samplesLeft_acceptFrame (hle : len.toNat ≤ 8192) (hd : s.dataPort.length = len.toNat) :
    (s.acceptFrame len).samplesLeft = samplesOf s.dataPort := by
  have hpn := s.acceptFrame_pn_toNat hle
  have hpidx : (s.acceptFrame len).pidx.toNat = 0 := rfl
  refine List.ext_getElem (by rw [State.samplesLeft_length, samplesOf_length]; omega) fun i hi hi' => ?_
  rw [samplesOf_length] at hi'
  have hlo : 2 * i < s.dataPort.length := by omega
  have hhi : 2 * i + 1 < s.dataPort.length := by omega
  have hlo := List.getElem?_eq_getElem hlo
  have hhi := List.getElem?_eq_getElem hhi
  have hread := State.readSample_acceptFrame len hlo hhi
  have hsample := samplesOf_getElem? s.dataPort i
  rw [hlo, hhi] at hsample
  obtain ⟨_, hsample⟩ := List.getElem?_eq_some_iff.mp hsample
  rw [hsample]
  simp [State.samplesLeft, hpidx, hread]

/-- FRAME's bands are those of its samples, with the volume factor of its one read of `VOL`. -/
theorem State.frameResult_acceptFrame (hle : len.toNat ≤ 8192) (hd : s.dataPort.length = len.toNat) :
    (s.acceptFrame len).frameResult = frameBands s.party (volFactor s.vol) s.lpY (samplesOf s.dataPort) := by
  have hpidx : (s.acceptFrame len).pidx.toNat = 0 := rfl
  have hpvf : (s.acceptFrame len).pvf = volFactor s.vol := rfl
  simp [State.frameResult, State.samples, State.samplesLeft_acceptFrame hle hd, hpidx, hpvf]

theorem step_frame {w : Word} {data : List Byte} {rest : List Event} (ha : s.agenda = .issue w data :: rest)
    (hw : decodeWord w = .ok (.frame len)) (hp : s.pstate = .idle) (hf : s.heldFrames = []) (h2 : 2 ≤ len.toNat)
    (hle : len.toNat ≤ 8192) (hd : data.length = len.toNat) :
    ∃ t, step s = .next t ∧ t.agenda = rest ∧ t.pstate = .compute ∧ t.pidx.toNat = 0 ∧ t.pn.toNat = len.toNat / 2 ∧
      t.history = s.history ∧ t.frameResult = frameBands s.party (volFactor s.vol) s.lpY (samplesOf data) :=
  ⟨_, (step_issue ha hw fun _ _ => hf).trans (execFrame_accepted hp h2 hle hd), rfl, rfl, rfl,
    State.acceptFrame_pn_toNat _ hle, rfl, State.frameResult_acceptFrame hle hd⟩

end

theorem runSteps_add {s t : State} {m : Nat} (h : runSteps m s = .next t) (n : Nat) :
    runSteps (m + n) s = runSteps n t := by
  induction m generalizing s with
  | zero =>
    injection h with h
    rw [h, Nat.zero_add]
  | succ m ih =>
    rw [runSteps] at h
    cases hstep : step s with
    | next u =>
      rw [hstep] at h
      rw [Nat.succ_add, runSteps_succ hstep]
      exact ih h
    | fault | refused =>
      rw [hstep] at h
      cases h

/-- Settles O31: the FRAME is accepted, the self-steps compute it, and the two acknowledgements take the mid write and end the
call. -/
theorem issuedFrameDeliversItsBands : Obligations.IssuedFrameDeliversItsBands := by
  intro s w len data d1 d2 rest hp hf hw h2 hle hd ha
  obtain ⟨n, hn⟩ : ∃ n, len.toNat / 2 = n + 1 := ⟨len.toNat / 2 - 1, by omega⟩
  obtain ⟨s₁, hstep₁, ha₁, hp₁, hpidx, hpn, hh₁, hresult⟩ := step_frame ha hw hp hf h2 hle hd
  obtain ⟨s₂, hrun₂, ha₂, hs₂⟩ := runSteps_frame (n := n) hp₁ (by omega) (by omega) (.inl (hn ▸ ha₁))
  obtain ⟨hp₂, hlen, hlp₂, hmid, hh₂, -⟩ := hs₂
  obtain ⟨s₃, hstep₃, ha₃, hp₃, hlp₃, hh₃⟩ := step_bassAck ha₂ hp₂ ((legalPwlen_iff _).mpr (by omega))
  obtain ⟨t, hstep₄, ha₄, hp₄, hlp₄, hh₄⟩ := step_midAck ha₃ hp₃
  obtain ⟨hbass_length, hmid_length⟩ := frameBands_length s.party (volFactor s.vol) s.lpY (samplesOf data)
  have hhalf : s₂.pwlen.toNat / 2 = s₁.pn.toNat := by omega
  rw [hresult] at hlp₂ hmid hh₂
  rw [hhalf, State.bytesLE_eq, hmid] at hh₃
  refine ⟨t, _, _, _, rfl, ?_, hp₄, ha₄, ?_, ?_, ?_, ?_⟩
  · rw [hn, runSteps_succ hstep₁ (n + 1 + 2), runSteps_add hrun₂, runSteps_succ hstep₃, runSteps_succ hstep₄, runSteps]
  · rw [hlp₄, hlp₃, hlp₂]
  · rw [hh₄, hh₃, hh₂, hh₁, List.append_assoc, List.singleton_append]
  · rw [bytesOf_length, hbass_length, samplesOf_length, hd]
  · rw [bytesOf_length, hmid_length, samplesOf_length, hd]

end Sys2Proof.Machine
end

section
/-! SUPPORT. What the encoder's operations change and leave unchanged, what repeated steps of its volume reach, and the
obligations of 43_encoder.md that say so. -/

namespace Sys2Proof.Machine

/-! ## The frames of the encoder's operations -/

section

variable (s : State)

theorem keepsRegs_encStart (a : Bool) (v : BitVec 7) :
    KeepsRegs [.ENC_RUN, .ENC_PREV_A, .ENC_LAST_EDGE, .ENC_VOL] s
      { s with encRun := true, encPrevA := a, encLastEdge := 0, encVol := v } := by
  intro r hr
  cases r
  case ENC_RUN | ENC_PREV_A | ENC_LAST_EDGE | ENC_VOL => simp at hr
  all_goals rfl

theorem keepsRegs_encStop : KeepsRegs [.ENC_RUN] s { s with encRun := false } := by
  intro r hr
  cases r
  case ENC_RUN => simp at hr
  all_goals rfl

theorem keepsRegs_pollEncoder (a b : Bool) :
    KeepsRegs [.VOL, .ENC_VOL, .ENC_LAST_EDGE, .ENC_PREV_A, .NOTIFY_ARMED] s (s.pollEncoder a b) := by
  rw [pollEncoder_eq]
  split
  · exact fun _ _ => rfl
  · intro r hr
    cases r
    case VOL | ENC_VOL | ENC_LAST_EDGE | ENC_PREV_A | NOTIFY_ARMED => simp at hr
    all_goals rfl

theorem keepsBuffers_pollEncoder (a b : Bool) : KeepsBuffers s (s.pollEncoder a b) := by
  rw [pollEncoder_eq]
  split <;> exact fun _ _ => rfl

theorem keepsPorts_pollEncoder (a b : Bool) : KeepsPorts s (s.pollEncoder a b) := by
  rw [pollEncoder_eq]
  split <;> exact ⟨rfl, rfl, rfl, rfl, rfl, rfl⟩

end

/-! ## One poll -/

section

variable {s : State} {a : Bool}

theorem exec_encPoll_running (h : s.encRun = true) (a b : Bool) : exec (.encPoll a b) s = .next (s.pollEncoder a b) :=
  congrArg Host.Outcome.next (if_pos h)

theorem exec_encPoll_stopped (h : s.encRun = false) (a b : Bool) : exec (.encPoll a b) s = .next s :=
  congrArg Host.Outcome.next (if_neg (by simp [h]))

theorem pollEncoder_of_level (h : a = s.encPrevA) (b : Bool) : s.pollEncoder a b = s := by
  rw [pollEncoder_eq, if_pos h]

/-- What the encoder holds after an edge of line A, and the event of an armed notification (43_encoder.md R186). -/
theorem pollEncoder_of_edge (h : a ≠ s.encPrevA) (b : Bool) :
    (s.pollEncoder a b).vol = s.edgeVol a b ∧ (s.pollEncoder a b).encVol = s.edgeVol a b ∧
      (s.pollEncoder a b).encLastEdge = s.timeMs ∧ (s.pollEncoder a b).encPrevA = a ∧
      (s.pollEncoder a b).notifyArmed = false ∧
      (s.pollEncoder a b).history =
        s.history ++ if s.notifyArmed then [.notify (BitVec.ofNat 8 (s.edgeVol a b).toNat)] else [] := by
  rw [pollEncoder_eq, if_neg h, BitVec.ofNat_toNat]
  exact ⟨rfl, rfl, rfl, rfl, rfl, rfl⟩

end

/-! ## Repeated steps -/

theorem encStep_pos (delta : BitVec 32) : 0 < encStep delta := by
  unfold encStep
  split_ifs <;> decide

/-- The encoder's volume after edges in one direction, from the times between them (43_encoder.md R189). -/
def encTurned (up : Bool) (v : BitVec 7) (deltas : List (BitVec 32)) : BitVec 7 :=
  deltas.foldl (fun u d => encNext u (encStep d) up) v

theorem encTurned_cons (up : Bool) (v : BitVec 7) (d : BitVec 32) (ds : List (BitVec 32)) :
    encTurned up v (d :: ds) = encTurned up (encNext v (encStep d) up) ds := rfl

/-- Each edge upwards adds at least one, up to the bound. -/
theorem le_encTurned_up (v : BitVec 7) (deltas : List (BitVec 32)) :
    min 127 (v.toNat + deltas.length) ≤ (encTurned true v deltas).toNat := by
  induction deltas generalizing v with
  | nil => exact Nat.min_le_right _ _
  | cons d ds ih =>
    have hpos := encStep_pos d
    have hrest := ih (encNext v (encStep d) true)
    rw [encNext_toNat, if_pos rfl] at hrest
    rw [encTurned_cons, List.length_cons]
    omega

/-- Each edge downwards takes away at least one, down to 0. -/
theorem encTurned_down_le (v : BitVec 7) (deltas : List (BitVec 32)) :
    (encTurned false v deltas).toNat ≤ v.toNat - deltas.length := by
  induction deltas generalizing v with
  | nil => exact Nat.le_refl _
  | cons d ds ih =>
    have hpos := encStep_pos d
    have hrest := ih (encNext v (encStep d) false)
    rw [encNext_toNat, if_neg Bool.false_ne_true] at hrest
    rw [encTurned_cons, List.length_cons]
    omega

/-! ## The obligations -/

/-- Settles O36: a running encoder's poll is `pollEncoder`, and the volume it sets is the saturating update by the step that
belongs to the time since the last edge. -/
theorem encPollFollowsLineA : Obligations.EncPollFollowsLineA := by
  intro s a b
  by_cases hrun : s.encRun = true
  · refine ⟨s.pollEncoder a b, exec_encPoll_running hrun a b, fun hstill => ?_, fun _ hedge => ?_⟩
    · exact pollEncoder_of_level (hstill.resolve_left (by simp [hrun])) b
    · obtain ⟨hvol, hencVol, hlast, hprev, harmed, hhist⟩ := pollEncoder_of_edge hedge b
      refine ⟨_, encStep (s.timeMs - s.encLastEdge), (s.edgeVol a b).toNat, elapsed_eq s.timeMs s.encLastEdge, rfl,
        edgeVol_toNat a b s, ?_, ?_, hlast, hprev, harmed, hhist, keepsRegs_pollEncoder s a b,
        keepsBuffers_pollEncoder s a b, keepsPorts_pollEncoder s a b⟩
      · rw [State.volByte_toNat, hvol]
      · rw [State.encVolByte_toNat, hencVol]
  · exact ⟨s, exec_encPoll_stopped (Bool.eq_false_iff.mpr hrun) a b, fun _ => rfl, fun h => absurd h hrun⟩

/-- Settles O38: seven bits hold at most 127, and 127 steps of at least one reach either bound from anywhere. -/
theorem repeatedStepsReachTheBound : Obligations.RepeatedStepsReachTheBound := by
  refine ⟨fun s => ⟨?_, ?_⟩, fun v deltas hlen => ⟨?_, ?_⟩⟩
  · rw [State.volByte_toNat]
    exact Nat.le_of_lt_succ s.vol.isLt
  · rw [State.encVolByte_toNat]
    exact Nat.le_of_lt_succ s.encVol.isLt
  · have hreach := le_encTurned_up v deltas
    have hbound := (encTurned true v deltas).isLt
    change (encTurned true v deltas).toNat = 127
    omega
  · have hreach := encTurned_down_le v deltas
    have hbound := v.isLt
    change (encTurned false v deltas).toNat = 0
    omega

/-- Settles O34: the effect is one record update of the four registers. -/
theorem encStartReinitialises : Obligations.EncStartReinitialises := fun s a =>
  ⟨_, rfl, rfl, rfl, rfl, rfl, keepsRegs_encStart s a s.vol, fun _ _ => rfl, ⟨rfl, rfl, rfl, rfl, rfl, rfl⟩, rfl⟩

/-- Settles O35: the effect is a write of `ENC_RUN`, with the value a stopped encoder already holds. -/
theorem encStopClearsTheRunFlag : Obligations.EncStopClearsTheRunFlag := fun s =>
  ⟨{ s with encRun := false }, rfl, rfl, fun h => h ▸ rfl, keepsRegs_encStop s, fun _ _ => rfl,
    ⟨rfl, rfl, rfl, rfl, rfl, rfl⟩, rfl⟩

/-- Settles O37: each clause is one side of the minimum with 127 or of the truncated difference. -/
theorem encoderUpdateSaturates : Obligations.EncoderUpdateSaturates := by
  intro v step
  rw [encNext_toNat, encNext_toNat, if_pos rfl, if_neg Bool.false_ne_true]
  omega

/-- Settles O39: VOL_SET_ABS leaves all that the edge computes its volume from. -/
theorem remoteVolumeIsOverwrittenByTheNextEdge : Obligations.RemoteVolumeIsOverwrittenByTheNextEdge := by
  intro s v a b hrun hedge
  have hpoll := exec_encPoll_running (s := s.writeVol (satVol v)) hrun a b
  obtain ⟨hvol, -⟩ := pollEncoder_of_edge (s := s.writeVol (satVol v)) hedge b
  refine ⟨s.writeVol (satVol v), _, rfl, ?_, rfl, hpoll, hvol⟩
  rw [State.volByte_toNat]
  exact satVol_toNat v

end Sys2Proof.Machine
end

section
/-! SUPPORT. What a poll of the button changes and leaves unchanged in each state of B, what a held press comes to over a
sequence of polls, and the obligations of 44_button.md that say so. -/

namespace Sys2Proof.Machine

/-! ## The two timeouts -/

section

variable {s : State}

theorem State.gestureDue_iff : s.gestureDue = true ↔ 0 < s.bClicks.toNat ∧ 400 < (s.timeMs - s.bLastClick).toNat := by
  rw [State.gestureDue, State.gapOver, Bool.and_eq_true, decide_eq_true_iff, decide_eq_true_iff]
  rfl

theorem State.holdOver_iff : s.holdOver = true ↔ 3000 < (s.timeMs - s.bPressStart).toNat :=
  decide_eq_true_iff

theorem State.gestureDue_eq_false (h : s.bClicks.toNat = 0 ∨ (s.timeMs - s.bLastClick).toNat ≤ 400) :
    s.gestureDue = false := by
  rw [Bool.eq_false_iff, Ne, State.gestureDue_iff]
  omega

theorem State.holdOver_eq_false (h : (s.timeMs - s.bPressStart).toNat ≤ 3000) : s.holdOver = false := by
  rw [Bool.eq_false_iff, Ne, State.holdOver_iff]
  omega

/-! ## The polls, case by case -/

theorem clickEvents_of_many {c : Nat} (h : 5 ≤ c) (playing : Bool) : clickEvents c playing = [] := by
  rw [clickEvents, if_neg (by omega), if_neg (by omega), if_neg (by omega)]

theorem timeoutDispatch_of_due (h : s.gestureDue = true) :
    s.timeoutDispatch =
      { s with
        isPlaying := if s.bClicks.toNat = 1 then !s.isPlaying else s.isPlaying
        party := if s.bClicks.toNat = 4 then !s.party else s.party
        history := s.history ++ clickEvents s.bClicks.toNat s.isPlaying
        bClicks := 0 } := by
  rw [timeoutDispatch_eq]
  simp [h]

theorem timeoutDispatch_of_not_due (h : s.gestureDue = false) : s.timeoutDispatch = s := by
  rw [timeoutDispatch_eq]
  simp [h]

/-- A press counts on, whether or not the gap is over: with no gesture due, a gap that is over has no clicks to forget. -/
theorem newPress_bClicks_toNat (h : s.gestureDue = false) :
    s.newPress.bClicks.toNat = min 255 (s.bClicks.toNat + 1) := by
  have hclicks : s.newPress.bClicks = satInc (if s.gapOver then 0 else s.bClicks) := rfl
  rw [hclicks, satInc_toNat]
  by_cases hgap : s.gapOver = true
  · have hnone : s.bClicks.toNat = 0 := by simpa [State.gestureDue, hgap] using h
    rw [if_pos hgap, hnone]
    rfl
  · rw [if_neg hgap]

theorem newPress_bClicks_of_zero (h : s.bClicks = 0) : s.newPress.bClicks = 1 := by
  have hclicks : s.newPress.bClicks = satInc (if s.gapOver then 0 else s.bClicks) := rfl
  rw [hclicks, h, ite_self]
  decide

/-- What B does at the poll that makes a press a long one (44_button.md R207). -/
def State.longPress (s : State) : State := { powerToggle s with bstate := .awaitRelease }

theorem longPress_history (s : State) :
    s.longPress.history = s.history ++ [.session (if s.powerOn then .stop else .start)] := by
  rw [State.longPress, powerToggle_eq]

theorem exec_release_idle (hb : s.bstate = .idle) : exec (.btnPoll true) s = .next s.timeoutDispatch :=
  execBtnPoll_idle hb

theorem exec_press_idle (hb : s.bstate = .idle) : exec (.btnPoll false) s = .next s.timeoutDispatch.newPress :=
  execBtnPoll_idle hb

theorem exec_press_held (hb : s.bstate = .pressed) (h : s.holdOver = true) :
    exec (.btnPoll false) s = .next s.longPress :=
  (execBtnPoll_pressed hb).trans (congrArg Host.Outcome.next (if_pos h))

theorem exec_press_not_yet_held (hb : s.bstate = .pressed) (h : s.holdOver = false) : exec (.btnPoll false) s = .next s :=
  (execBtnPoll_pressed hb).trans (congrArg Host.Outcome.next (if_neg (Bool.eq_false_iff.mp h)))

theorem exec_press_await (hb : s.bstate = .awaitRelease) : exec (.btnPoll false) s = .next s := execBtnPoll_await hb

end

/-! ## The frames of the polls -/

section

variable (s : State)

theorem frame_timeoutDispatch :
    KeepsRegs [.B_CLICKS, .IS_PLAYING, .PARTY] s s.timeoutDispatch ∧ KeepsBuffers s s.timeoutDispatch ∧
      KeepsPorts s s.timeoutDispatch := by
  rw [timeoutDispatch_eq]
  refine ⟨fun r hr => ?_, fun _ _ => rfl, rfl, rfl, rfl, rfl, rfl, rfl⟩
  cases r
  case B_CLICKS | IS_PLAYING | PARTY => simp at hr
  all_goals rfl

theorem frame_newPress :
    KeepsRegs [.BSTATE, .B_CLICKS, .B_LAST_CLICK, .B_PRESS_START] s s.newPress ∧ KeepsBuffers s s.newPress ∧
      KeepsPorts s s.newPress := by
  refine ⟨fun r hr => ?_, fun _ _ => rfl, rfl, rfl, rfl, rfl, rfl, rfl⟩
  cases r
  case BSTATE | B_CLICKS | B_LAST_CLICK | B_PRESS_START => simp at hr
  all_goals rfl

theorem frame_release (c : BitVec 8) :
    KeepsRegs [.BSTATE, .B_CLICKS] s { s with bClicks := c, bstate := .idle } ∧
      KeepsBuffers s { s with bClicks := c, bstate := .idle } ∧ KeepsPorts s { s with bClicks := c, bstate := .idle } := by
  refine ⟨fun r hr => ?_, fun _ _ => rfl, rfl, rfl, rfl, rfl, rfl, rfl⟩
  cases r
  case BSTATE | B_CLICKS => simp at hr
  all_goals rfl

theorem frame_longPress :
    KeepsRegs [.BSTATE, .POWER_ON] s s.longPress ∧ KeepsBuffers s s.longPress ∧ KeepsPorts s s.longPress := by
  refine ⟨fun r hr => ?_, fun _ _ => rfl, rfl, rfl, rfl, rfl, rfl, rfl⟩
  cases r
  case BSTATE | POWER_ON => simp at hr
  all_goals rfl

theorem keepsRegs_time (now : BitVec 32) : KeepsRegs [.TIME_MS] s { s with timeMs := now } := by
  intro r hr
  cases r
  case TIME_MS => simp at hr
  all_goals rfl

end

section

variable {rs rs' : List Reg} {s t u : State}

theorem KeepsRegs.trans (h : KeepsRegs rs s t) (h' : KeepsRegs rs' t u) : KeepsRegs (rs ++ rs') s u := fun r hr =>
  (h' r fun hmem => hr (List.mem_append_right rs hmem)).trans (h r fun hmem => hr (List.mem_append_left rs' hmem))

theorem KeepsBuffers.trans (h : KeepsBuffers s t) (h' : KeepsBuffers t u) : KeepsBuffers s u := fun b off =>
  (h' b off).trans (h b off)

theorem KeepsPorts.trans (h : KeepsPorts s t) (h' : KeepsPorts t u) : KeepsPorts s u := by
  obtain ⟨hdata, hframes, hmutes, hagenda, hbuf, hpick⟩ := h
  obtain ⟨hdata', hframes', hmutes', hagenda', hbuf', hpick'⟩ := h'
  exact ⟨hdata'.trans hdata, hframes'.trans hframes, hmutes'.trans hmutes, hagenda'.trans hagenda, hbuf'.trans hbuf,
    hpick'.trans hpick⟩

end

/-! ## The writers of `BSTATE` -/

@[simp] theorem State.pollEncoder_bstate (s : State) (a b : Bool) : (s.pollEncoder a b).bstate = s.bstate := by
  rw [pollEncoder_eq]
  split <;> rfl

/-- Every instruction but BTN_POLL and RESET leaves `BSTATE`. -/
theorem exec_bstate {i : Instr} {s t : State} (h : exec i s = .next t) (hpoll : ∀ l, i ≠ .btnPoll l)
    (hreset : ∀ a0, i ≠ .reset a0) : t.bstate = s.bstate := by
  cases i
  case btnPoll l => exact absurd rfl (hpoll l)
  case reset a0 => exact absurd rfl (hreset a0)
  case frame len =>
    obtain ⟨-, -, rfl⟩ | ⟨-, -, -, -, rfl⟩ | ⟨-, rfl⟩ := execFrame_cases h
    · rfl
    · exact s.acceptFrame_bstate len
    · rfl
  case mute =>
    obtain ⟨-, rfl⟩ | ⟨-, rfl⟩ := execMute_cases h
    · exact s.startMute_bstate
    · rfl
  case bassAck =>
    obtain ⟨-, -, rfl⟩ := execBassAck_cases h
    rfl
  case midAck =>
    obtain ⟨-, rfl⟩ := execMidAck_cases h
    rfl
  case encPoll a b =>
    injection h with h
    rw [← h]
    split
    · exact s.pollEncoder_bstate a b
    · rfl
  case bandEval x =>
    obtain ⟨-, rfl⟩ := execBandEval_cases h
    exact s.writeBands_bstate x
  case sampleStep =>
    obtain ⟨-, -, rfl⟩ | ⟨-, rfl⟩ := execSampleStep_cases h
    · exact s.computeSample_bstate
    · rfl
  all_goals
    injection h with h
    exact h ▸ rfl

/-! ## A held press -/

/-- One of the polls after the given pauses falls more than LONG_PRESS_MS after the press (44_button.md R210). -/
def PolledPastHold (ds : List (BitVec 24)) (now start : BitVec 32) : Prop :=
  ∃ k, k < ds.length ∧ 3000 < (timeAfter (ds.take (k + 1)) now - start).toNat

theorem polledPastHold_nil (now start : BitVec 32) : ¬PolledPastHold [] now start := fun ⟨k, hk, _⟩ =>
  absurd hk (Nat.not_lt_zero k)

theorem polledPastHold_cons (d : BitVec 24) (ds : List (BitVec 24)) (now start : BitVec 32) :
    PolledPastHold (d :: ds) now start ↔
      3000 < (now + d.setWidth 32 - start).toNat ∨ PolledPastHold ds (now + d.setWidth 32) start := by
  constructor
  · rintro ⟨_ | k, hk, hpast⟩
    · exact .inl hpast
    · exact .inr ⟨k, Nat.lt_of_succ_lt_succ hk, hpast⟩
  · rintro (hfirst | ⟨k, hk, hpast⟩)
    · exact ⟨0, Nat.succ_pos _, hfirst⟩
    · exact ⟨k + 1, Nat.succ_lt_succ hk, hpast⟩

/-- Holding goes on after a pause in the state that the poll leaves. -/
theorem holdButton_cons {d : BitVec 24} {s t : State} (ds : List (BitVec 24))
    (h : exec (.btnPoll false) { s with timeMs := s.timeMs + d.setWidth 32 } = .next t) :
    holdButton (d :: ds) s = holdButton ds t := by
  have htick : exec (.tickMs d) s = .next { s with timeMs := s.timeMs + d.setWidth 32 } := rfl
  simp only [holdButton, htick, h]

/-- Once the long press has been acted on, holding on only passes the time. -/
theorem holdButton_await (ds : List (BitVec 24)) {s : State} (hb : s.bstate = .awaitRelease) :
    holdButton ds s = .next { s with timeMs := timeAfter ds s.timeMs } := by
  induction ds generalizing s with
  | nil => rfl
  | cons d ds ih =>
    rw [holdButton_cons ds (exec_press_await hb)]
    exact ih hb

theorem holdButton_of_not_past {ds : List (BitVec 24)} {s : State} (hb : s.bstate = .pressed)
    (h : ¬PolledPastHold ds s.timeMs s.bPressStart) :
    holdButton ds s = .next { s with timeMs := timeAfter ds s.timeMs } := by
  induction ds generalizing s with
  | nil => rfl
  | cons d ds ih =>
    rw [polledPastHold_cons, not_or] at h
    obtain ⟨hfirst, hrest⟩ := h
    rw [holdButton_cons ds (exec_press_not_yet_held hb (State.holdOver_eq_false (Nat.le_of_not_lt hfirst)))]
    exact ih hb hrest

theorem holdButton_of_past {ds : List (BitVec 24)} {s : State} (hb : s.bstate = .pressed)
    (h : PolledPastHold ds s.timeMs s.bPressStart) :
    holdButton ds s = .next { s.longPress with timeMs := timeAfter ds s.timeMs } := by
  induction ds generalizing s with
  | nil => exact absurd h (polledPastHold_nil _ _)
  | cons d ds ih =>
    by_cases hfirst : 3000 < (s.timeMs + d.setWidth 32 - s.bPressStart).toNat
    · rw [holdButton_cons ds (exec_press_held hb (State.holdOver_iff.mpr hfirst))]
      exact holdButton_await ds rfl
    · have hrest := ((polledPastHold_cons d ds _ _).mp h).resolve_left hfirst
      rw [holdButton_cons ds (exec_press_not_yet_held hb (State.holdOver_eq_false (Nat.le_of_not_lt hfirst)))]
      exact ih hb hrest

/-! ## The obligations -/

/-- Settles O40: each clause is the dispatch's record update at that count. -/
theorem pendingGestureIsDispatchedByCount : Obligations.PendingGestureIsDispatchedByCount := by
  intro s hb hclicks hgap
  have hdispatch := timeoutDispatch_of_due (State.gestureDue_iff.mpr ⟨hclicks, hgap⟩)
  refine ⟨s.timeoutDispatch, exec_release_idle hb, ?_, fun hc => ?_, fun hc => ?_, fun hc => ?_, fun hc => ?_, fun hc => ?_,
    frame_timeoutDispatch s⟩
  · rw [hdispatch]
  · simp [hdispatch, hc, clickEvents]
  · simp [hdispatch, hc, clickEvents]
  · simp [hdispatch, hc, clickEvents]
  · simp [hdispatch, hc, clickEvents, State.indOut]
  · rw [hdispatch, clickEvents_of_many hc]
    exact ⟨if_neg (by omega), if_neg (by omega), List.append_nil _⟩

/-- Settles O41: with no gesture due the poll is the new press alone. -/
theorem newPressCounts : Obligations.NewPressCounts := by
  intro s hb hquiet
  have hdue := State.gestureDue_eq_false hquiet
  obtain ⟨hregs, hbufs, hports⟩ := frame_newPress s
  refine ⟨s.newPress, ?_, rfl, rfl, rfl, newPress_bClicks_toNat hdue, hregs, hbufs, hports, rfl⟩
  rw [exec_press_idle hb, timeoutDispatch_of_not_due hdue]

/-- Settles O42: the pressed poll is the new press after the dispatch that the released poll is, and finds the count 0. -/
theorem dispatchComesBeforeTheNewPress : Obligations.DispatchComesBeforeTheNewPress := by
  intro s hb hclicks hgap
  have hdispatch := timeoutDispatch_of_due (State.gestureDue_iff.mpr ⟨hclicks, hgap⟩)
  have htime : s.timeoutDispatch.timeMs = s.timeMs := by rw [hdispatch]
  have hzero : s.timeoutDispatch.bClicks = 0 := by rw [hdispatch]
  obtain ⟨hregs, hbufs, hports⟩ := frame_timeoutDispatch s
  obtain ⟨hregs', hbufs', hports'⟩ := frame_newPress s.timeoutDispatch
  exact ⟨s.timeoutDispatch, s.timeoutDispatch.newPress, exec_release_idle hb, exec_press_idle hb, rfl, rfl, rfl,
    newPress_bClicks_of_zero hzero, rfl, htime, htime, (hregs.trans hregs').mono (by simp), hbufs.trans hbufs',
    hports.trans hports'⟩

/-- Settles O44: the poll is `longPress`; of the instructions only a poll and RESET write `BSTATE`, and a poll of a held
button leaves B waiting. -/
theorem longPressTogglesPower : Obligations.LongPressTogglesPower := by
  refine ⟨fun i s t h hb hrelease hreset => ?_, fun s hb hheld => ?_⟩
  · by_cases hpress : i = .btnPoll false
    · rw [hpress, exec_press_await hb] at h
      injection h with h
      exact h ▸ hb
    · have hpoll : ∀ l, i ≠ .btnPoll l := Bool.forall_bool.mpr ⟨hpress, hrelease⟩
      exact (exec_bstate h hpoll hreset).trans hb
  · exact ⟨s.longPress, exec_press_held hb (State.holdOver_iff.mpr hheld), rfl, rfl, rfl, rfl, frame_longPress s⟩

/-- Settles O46: a run with a poll past the threshold is one long press, and any other run only passes the time. -/
theorem heldPressGivesOneSessionEvent : Obligations.HeldPressGivesOneSessionEvent := by
  intro ds s hb
  have htime (p : State) := keepsRegs_time p (timeAfter ds s.timeMs)
  by_cases hpast : PolledPastHold ds s.timeMs s.bPressStart
  · obtain ⟨hregs, -⟩ := frame_longPress s
    exact ⟨_, holdButton_of_past hb hpast, .inr ⟨rfl, rfl, longPress_history s⟩, iff_of_true rfl hpast, rfl,
      hregs.trans (htime _)⟩
  · refine ⟨_, holdButton_of_not_past hb hpast, .inl ⟨hb, rfl, rfl⟩, iff_of_false ?_ hpast, rfl, (htime s).mono (by simp)⟩
    simp [hb]

/-- Settles O43: no gesture is due, the hold is not over, or B waits for the release. -/
theorem quietButtonPolls : Obligations.QuietButtonPolls := by
  refine fun s => ⟨fun hb hquiet => ?_, fun hb hhold => ?_, exec_press_await⟩
  · rw [exec_release_idle hb, timeoutDispatch_of_not_due (State.gestureDue_eq_false hquiet)]
  · exact exec_press_not_yet_held hb (State.holdOver_eq_false hhold)

/-- Settles O45: the release writes `BSTATE`, and from `B_AWAIT_RELEASE` the count. -/
theorem releaseReturnsToIdle : Obligations.ReleaseReturnsToIdle := by
  rintro s (hb | hb)
  · obtain ⟨hregs, hbufs, hports⟩ := frame_release s s.bClicks
    exact ⟨_, execBtnPoll_pressed hb, rfl, (if_neg (by simp [hb])).symm, hregs, hbufs, hports, rfl⟩
  · obtain ⟨hregs, hbufs, hports⟩ := frame_release s 0
    exact ⟨_, execBtnPoll_await hb, rfl, (if_pos hb).symm, hregs, hbufs, hports, rfl⟩

end Sys2Proof.Machine
end

section
/-! SUPPORT. The registers each instruction can write, as one table, and the obligations of 45_shared_ports.md: what the host's
words write, and who the writers of the shared registers are. -/

namespace Sys2Proof.Machine

/-! ## The frames of the host's words -/

section

variable (s : State)

theorem keepsRegs_writeVol (v : BitVec 7) : KeepsRegs [.VOL] s (s.writeVol v) := by
  intro r hr
  cases r
  case VOL => simp at hr
  all_goals rfl

theorem keepsRegs_arm : KeepsRegs [.NOTIFY_ARMED] s { s with notifyArmed := true } := by
  intro r hr
  cases r
  case NOTIFY_ARMED => simp at hr
  all_goals rfl

theorem keepsRegs_playing (p : Bool) : KeepsRegs [.IS_PLAYING] s { s with isPlaying := p } := by
  intro r hr
  cases r
  case IS_PLAYING => simp at hr
  all_goals rfl

end

/-! ## The registers an instruction can write -/

/-- The flag that the dispatch of a gesture of `c` clicks flips, if any (44_button.md R202). -/
def gestureRegs (c : Nat) : List Reg := if c = 1 then [.IS_PLAYING] else if c = 4 then [.PARTY] else []

/-- What a poll of the button at level `l` can write in each state of B (44_button.md R201). -/
def polledRegs (l : Bool) (s : State) : List Reg :=
  match s.bstate with
  | .idle => .B_CLICKS :: gestureRegs s.bClicks.toNat ++ [.BSTATE, .B_CLICKS, .B_LAST_CLICK, .B_PRESS_START]
  | .pressed => if l then [.BSTATE, .B_CLICKS] else [.BSTATE, .POWER_ON]
  | .awaitRelease => [.BSTATE, .B_CLICKS]
  | .reserved => []

/-- What a poll of the encoder with line A at level `a` can write: nothing but at an edge while it runs (43_encoder.md R186). -/
def encPolledRegs (a : Bool) (s : State) : List Reg :=
  if s.encRun = true ∧ a ≠ s.encPrevA then [.VOL, .ENC_VOL, .ENC_LAST_EDGE, .ENC_PREV_A, .NOTIFY_ARMED] else []

/-- The registers of which an instruction can change the contents; RESET can change every one. -/
def writtenRegs (i : Instr) (s : State) : List Reg :=
  match i with
  | .frame _ => [.PSTATE, .PN, .PIDX, .PVF]
  | .mute => [.PSTATE, .PWLEN]
  | .bassAck | .midAck => [.PSTATE]
  | .lpfClear | .c1Step _ | .c1Clear => [.LP_Y]
  | .encStart _ => [.ENC_RUN, .ENC_PREV_A, .ENC_LAST_EDGE, .ENC_VOL]
  | .encStop => [.ENC_RUN]
  | .encPoll a _ => encPolledRegs a s
  | .btnPoll l => polledRegs l s
  | .volSetAbs _ => [.VOL]
  | .notifyArm => [.NOTIFY_ARMED]
  | .playStatus _ => [.IS_PLAYING]
  | .tickMs _ => [.TIME_MS]
  | .reset _ =>
    [.PSTATE, .PN, .PIDX, .PVF, .PWLEN, .LP_Y, .VOL, .PARTY, .IS_PLAYING, .NOTIFY_ARMED, .POWER_ON, .TIME_MS, .ENC_RUN,
      .ENC_PREV_A, .ENC_LAST_EDGE, .ENC_VOL, .BSTATE, .B_CLICKS, .B_LAST_CLICK, .B_PRESS_START]
  | .c1Hold | .bandEval _ => []
  | .sampleStep => [.LP_Y, .PIDX, .PWLEN, .PSTATE]

section

variable {s t : State}

theorem KeepsRegs.refl (rs : List Reg) (s : State) : KeepsRegs rs s s := fun _ _ => rfl

theorem KeepsRegs.mem_of_ne {rs : List Reg} {r : Reg} (h : KeepsRegs rs s t) (hne : t.reg r ≠ s.reg r) : r ∈ rs :=
  by_contra fun hr => hne (h r hr)

theorem keepsRegs_timeoutDispatch (s : State) :
    KeepsRegs (.B_CLICKS :: gestureRegs s.bClicks.toNat) s s.timeoutDispatch := by
  obtain ⟨hregs, -⟩ := frame_timeoutDispatch s
  intro r hr
  cases r
  case B_CLICKS => simp at hr
  case IS_PLAYING =>
    have hc : s.bClicks.toNat ≠ 1 := fun hc => hr (by simp [gestureRegs, hc])
    simp [timeoutDispatch_eq, State.reg, hc]
  case PARTY =>
    have hc : s.bClicks.toNat ≠ 4 := fun hc => hr (by simp [gestureRegs, hc])
    simp [timeoutDispatch_eq, State.reg, hc]
  all_goals exact hregs _ (by simp)

theorem keepsRegs_pollPressed (l : Bool) (s : State) :
    KeepsRegs (if l then [.BSTATE, .B_CLICKS] else [.BSTATE, .POWER_ON]) s (s.pollPressed l) := by
  cases l
  · by_cases hheld : s.holdOver = true
    · have hpress : s.pollPressed false = s.longPress := if_pos hheld
      rw [hpress]
      exact (frame_longPress s).1
    · have hpress : s.pollPressed false = s := if_neg hheld
      rw [hpress]
      exact .refl _ s
  · exact (frame_release s s.bClicks).1

theorem execBtnPoll_keepsRegs {l : Bool} (h : execBtnPoll l s = .next t) : KeepsRegs (polledRegs l s) s t := by
  unfold polledRegs
  obtain ⟨hb, rfl⟩ | ⟨hb, rfl⟩ | ⟨hb, rfl⟩ := execBtnPoll_cases h <;> rw [hb]
  · have hdispatch := keepsRegs_timeoutDispatch s
    cases l
    · exact hdispatch.trans (frame_newPress s.timeoutDispatch).1
    · exact hdispatch.mono (List.subset_append_left _ _)
  · exact keepsRegs_pollPressed l s
  · cases l
    · exact .refl _ s
    · exact (frame_release s 0).1

theorem execEncPoll_keepsRegs {a b : Bool} (h : execEncPoll a b s = .next t) : KeepsRegs (encPolledRegs a s) s t := by
  injection h with h
  rw [← h, encPolledRegs]
  by_cases hrun : s.encRun = true
  · rw [if_pos hrun]
    by_cases hlevel : a = s.encPrevA
    · rw [pollEncoder_of_level hlevel]
      exact .refl _ s
    · rw [if_pos ⟨hrun, hlevel⟩]
      exact keepsRegs_pollEncoder s a b
  · rw [if_neg hrun]
    exact .refl _ s

/-- Every instruction keeps the registers that the table does not list for it. -/
theorem exec_keepsRegs {i : Instr} (h : exec i s = .next t) : KeepsRegs (writtenRegs i s) s t := by
  cases i
  case frame len =>
    obtain ⟨-, -, rfl⟩ | ⟨-, -, -, -, rfl⟩ | ⟨-, rfl⟩ := execFrame_cases h
    · exact .refl _ _
    · exact keepsRegs_acceptFrame s len
    · exact fun _ _ => rfl
  case mute =>
    obtain ⟨-, rfl⟩ | ⟨-, rfl⟩ := execMute_cases h
    · exact keepsRegs_startMute s
    · exact fun _ _ => rfl
  case bassAck =>
    obtain ⟨-, -, rfl⟩ := execBassAck_cases h
    exact keepsRegs_move s _ _
  case midAck =>
    obtain ⟨-, rfl⟩ := execMidAck_cases h
    exact keepsRegs_move s _ _
  case btnPoll l => exact execBtnPoll_keepsRegs h
  case encPoll a b => exact execEncPoll_keepsRegs h
  case bandEval x =>
    obtain ⟨-, rfl⟩ := execBandEval_cases h
    exact keepsRegs_writeBands s x
  case sampleStep =>
    obtain ⟨-, -, rfl⟩ | ⟨-, rfl⟩ := execSampleStep_cases h
    · exact keepsRegs_computeSample s
    · exact .refl _ _
  case reset a0 => exact fun r hr => absurd (by cases r <;> simp [writtenRegs]) hr
  all_goals
    injection h with h
    subst h
  case lpfClear | c1Step | c1Clear => exact keepsRegs_writeLpY s _
  case encStart a => exact keepsRegs_encStart s a s.vol
  case encStop => exact keepsRegs_encStop s
  case volSetAbs v => exact keepsRegs_writeVol s _
  case notifyArm => exact keepsRegs_arm s
  case playStatus p => exact keepsRegs_playing s p
  case tickMs d => exact keepsRegs_time s _
  case c1Hold => exact .refl _ s

end

/-! ## The writers of the shared registers -/

/-- Who writes each register that two units share, RESET aside (45_shared_ports.md R230, R234, R236; 10_state.md R37, R43);
of the other registers it says nothing. -/
def IsWriterOf (r : Reg) (i : Instr) (s : State) : Prop :=
  match r with
  | .PARTY => (∃ l, i = .btnPoll l) ∧ s.bClicks.toNat = 4
  | .POWER_ON => i = .btnPoll false ∧ s.bstate = .pressed
  | .IS_PLAYING => ((∃ l, i = .btnPoll l) ∧ s.bClicks.toNat = 1) ∨ ∃ p, i = .playStatus p
  | .NOTIFY_ARMED => i = .notifyArm ∨ ∃ a b, i = .encPoll a b
  | .VOL => (∃ v, i = .volSetAbs v) ∨ ∃ a b, i = .encPoll a b ∧ s.encRun = true ∧ a ≠ s.encPrevA
  | .ENC_VOL => (∃ a, i = .encStart a) ∨ ∃ a b, i = .encPoll a b ∧ s.encRun = true ∧ a ≠ s.encPrevA
  | .TIME_MS => ∃ d, i = .tickMs d
  | .PSTATE | .PN | .PIDX | .PVF | .PWLEN | .LP_Y | .ENC_RUN | .ENC_PREV_A | .ENC_LAST_EDGE | .BSTATE | .B_CLICKS
  | .B_LAST_CLICK | .B_PRESS_START => True

section

variable {i : Instr} {s t : State}

theorem isWriterOf_gestureRegs (l : Bool) : ∀ r ∈ gestureRegs s.bClicks.toNat, IsWriterOf r (.btnPoll l) s := by
  unfold gestureRegs
  split_ifs with h1 h4
  · simp [IsWriterOf, h1]
  · simp [IsWriterOf, h4]
  · nofun

theorem isWriterOf_polledRegs (l : Bool) : ∀ r ∈ polledRegs l s, IsWriterOf r (.btnPoll l) s := by
  unfold polledRegs
  split
  · rw [List.forall_mem_append, List.forall_mem_cons]
    exact ⟨⟨trivial, isWriterOf_gestureRegs l⟩, by simp [IsWriterOf]⟩
  · rename_i hb
    cases l <;> simp [IsWriterOf, hb]
  · simp [IsWriterOf]
  · nofun

theorem isWriterOf_encPolledRegs (a b : Bool) : ∀ r ∈ encPolledRegs a s, IsWriterOf r (.encPoll a b) s := by
  unfold encPolledRegs
  split
  · rename_i hedge
    simp [IsWriterOf, hedge]
  · nofun

theorem isWriterOf_writtenRegs (hreset : ∀ a0, i ≠ .reset a0) : ∀ r ∈ writtenRegs i s, IsWriterOf r i s := by
  cases i
  case reset a0 => exact absurd rfl (hreset a0)
  case btnPoll l => exact isWriterOf_polledRegs l
  case encPoll a b => exact isWriterOf_encPolledRegs a b
  all_goals simp [writtenRegs, IsWriterOf]

/-- A register changes only under an instruction that is its writer. -/
theorem exec_isWriterOf {r : Reg} (h : exec i s = .next t) (hreset : ∀ a0, i ≠ .reset a0) (hne : t.reg r ≠ s.reg r) :
    IsWriterOf r i s :=
  isWriterOf_writtenRegs hreset r ((exec_keepsRegs h).mem_of_ne hne)

theorem boolToNat_injective : Function.Injective Bool.toNat := Function.LeftInverse.injective Bool.ofNat_toNat

/-- A poll of the encoder can clear the flag but not set it. -/
theorem execEncPoll_notifyArmed {a b : Bool} (h : execEncPoll a b s = .next t) (ht : t.notifyArmed = true) :
    s.notifyArmed = true := by
  injection h with h
  rw [← h] at ht
  split at ht
  · rw [pollEncoder_eq] at ht
    split at ht
    · exact ht
    · exact absurd ht Bool.false_ne_true
  · exact ht

end

theorem toNat_add_delay (now : BitVec 32) (d : BitVec 24) :
    (now + d.setWidth 32).toNat = (now.toNat + d.toNat) % 2 ^ 32 := by
  rw [BitVec.toNat_add, BitVec.toNat_setWidth_of_le (by decide)]

/-! ## The obligations -/

/-- Settles O52: each flag changes only under its writers, and of the two writers of `NOTIFY_ARMED` one only sets it and the
other only clears it. -/
theorem flagsHaveTheirWriters : Obligations.FlagsHaveTheirWriters := by
  intro i s t h hreset
  have writer {r : Reg} (hne : t.reg r ≠ s.reg r) : IsWriterOf r i s := exec_isWriterOf h hreset hne
  have armed (hne : t.notifyArmed ≠ s.notifyArmed) : i = .notifyArm ∨ ∃ a b, i = .encPoll a b :=
    writer (r := .NOTIFY_ARMED) (boolToNat_injective.ne hne)
  refine ⟨fun hne => writer (r := .PARTY) ?_, fun hne => writer (r := .POWER_ON) ?_,
    fun hne => writer (r := .IS_PLAYING) ?_, fun ht hs => ?_, fun ht hs => ?_⟩
  · exact boolToNat_injective.ne hne
  · exact boolToNat_injective.ne hne
  · exact boolToNat_injective.ne hne
  · obtain hi | ⟨a, b, rfl⟩ := armed (by simp [ht, hs])
    · exact hi
    · exact absurd (execEncPoll_notifyArmed h ht) (by simp [hs])
  · obtain rfl | hi := armed (by simp [ht, hs])
    · injection h with h
      simp [← h] at ht
    · exact hi

/-- Settles O53: each register changes only under its writers. -/
theorem volumeAndTimeHaveTheirWriters : Obligations.VolumeAndTimeHaveTheirWriters := by
  intro i s t h hreset
  have writer {r : Reg} (hne : t.reg r ≠ s.reg r) : IsWriterOf r i s := exec_isWriterOf h hreset hne
  refine ⟨fun hne => writer (r := .VOL) ?_, fun hne => writer (r := .ENC_VOL) ?_, fun hne => writer (r := .TIME_MS) ?_⟩
  · simpa [State.reg, BitVec.toNat_inj] using hne
  · simpa [State.reg, BitVec.toNat_inj] using hne
  · simpa [State.reg, BitVec.toNat_inj] using hne

/-- Settles O47: the effect is a write of `VOL` with the saturated operand. -/
theorem volSetAbsSaturates : Obligations.VolSetAbsSaturates := fun s v =>
  ⟨s.writeVol (satVol v), rfl, (State.volByte_toNat _).trans (satVol_toNat v), keepsRegs_writeVol s _, fun _ _ => rfl,
    ⟨rfl, rfl, rfl, rfl, rfl, rfl⟩, rfl⟩

/-- Settles O48: the effect is a write of the flag with 1, which a second one repeats. -/
theorem notifyArmSetsTheFlag : Obligations.NotifyArmSetsTheFlag := fun s =>
  ⟨{ s with notifyArmed := true }, rfl, rfl, rfl, keepsRegs_arm s, fun _ _ => rfl, ⟨rfl, rfl, rfl, rfl, rfl, rfl⟩, rfl⟩

/-- Settles O49: the effect is a write of the flag with the operand. -/
theorem playStatusWritesTheFlag : Obligations.PlayStatusWritesTheFlag := fun s p =>
  ⟨{ s with isPlaying := p }, rfl, rfl, keepsRegs_playing s p, fun _ _ => rfl, ⟨rfl, rfl, rfl, rfl, rfl, rfl⟩, rfl⟩

/-- Settles O50: the effect is a write of `TIME_MS` with the 32-bit sum. -/
theorem tickAdvancesTheTimeBase : Obligations.TickAdvancesTheTimeBase := fun s d =>
  ⟨{ s with timeMs := s.timeMs + d.setWidth 32 }, rfl, toNat_add_delay s.timeMs d, keepsRegs_time s _, fun _ _ => rfl,
    ⟨rfl, rfl, rfl, rfl, rfl, rfl⟩, rfl⟩

end Sys2Proof.Machine
end

section
/-! SUPPORT. What an instruction needs of the state it finds, and that the schedule prepares it where H keeps its duties; and
the obligation that such a step is never refused (60_exceptions.md R252, 70_reset_and_hazards.md R282). -/

namespace Sys2Proof.Machine

/-- What an instruction needs, beyond the machine's invariant, of the state it finds: FRAME its LEN bytes on the frame data
port, an acknowledgement the sink write that waits for it, BAND_EVAL an index of the buffers. -/
def DutyKept (i : Instr) (s : State) : Prop :=
  match i with
  | .frame len => s.dataPort.length = len.toNat
  | .bassAck => s.pstate = .wrBass
  | .midAck => s.pstate = .wrMid
  | .bandEval _ => s.pidx.toNat < 4096
  | .mute | .lpfClear | .encStart _ | .encStop | .encPoll _ _ | .btnPoll _ | .volSetAbs _ | .notifyArm | .playStatus _
  | .tickMs _ | .reset _ | .c1Hold | .c1Step _ | .c1Clear | .sampleStep => True

/-- What the schedule answers, a signal for a state, is dutiful: the ports are well-formed, and the signal, if there is one,
spells an instruction that finds what it needs. -/
def DutifulNext (r : Option Signal × State) : Prop :=
  r.2.portsInv ∧ ∀ sig, r.1 = some sig → ∃ i, decode sig = .ok i ∧ DutyKept i r.2

section

variable {s t : State} {i : Instr}

/-! ## An instruction that finds what it needs is not refused -/

theorem execFrame_next {len : BitVec 24} (hd : s.dataPort.length = len.toNat) : ∃ t, execFrame len s = .next t := by
  by_cases hp : s.pstate = .idle
  · by_cases hlarge : 8192 < len.toNat
    · exact ⟨_, execFrame_dropped hp hlarge⟩
    · by_cases hsmall : len.toNat < 2
      · exact ⟨_, execFrame_empty hp hsmall⟩
      · exact ⟨_, execFrame_accepted hp (by omega) (by omega) hd⟩
  · exact ⟨_, execFrame_busy hp⟩

theorem execMute_next (s : State) : ∃ t, execMute s = .next t := by
  by_cases hp : s.pstate = .idle
  · exact ⟨_, execMute_idle hp⟩
  · exact ⟨_, execMute_busy hp⟩

theorem State.Inv.execSampleStep_next (h : s.Inv) : ∃ t, execSampleStep s = .next t := by
  obtain ⟨-, hpipe, -⟩ := h
  by_cases hp : s.pstate = .compute
  · obtain ⟨hl, -⟩ := (State.pipelineInv_iff_of_compute hp).mp hpipe
    exact ⟨_, execSampleStep_enabled hp hl⟩
  · exact ⟨_, execSampleStep_waits hp⟩

theorem State.Inv.execBassAck_next (h : s.Inv) (hp : s.pstate = .wrBass) : ∃ t, execBassAck s = .next t := by
  obtain ⟨-, hpipe, -⟩ := h
  obtain ⟨hl, -⟩ := (State.pipelineInv_iff_of_wrBass hp).mp hpipe
  exact ⟨_, execBassAck_enabled hp hl⟩

theorem State.Inv.execBtnPoll_next (h : s.Inv) (l : Bool) : ∃ t, Machine.execBtnPoll l s = .next t := by
  obtain ⟨-, -, hres, -⟩ := h
  cases hb : s.bstate
  case idle => exact ⟨_, execBtnPoll_idle hb⟩
  case pressed => exact ⟨_, execBtnPoll_pressed hb⟩
  case awaitRelease => exact ⟨_, execBtnPoll_await hb⟩
  case reserved => exact absurd hb hres

/-- The instructions that the cases do not name have a next state by definition. -/
theorem State.Inv.exec_next (h : s.Inv) (hd : DutyKept i s) : ∃ t, Machine.exec i s = .next t := by
  cases i
  case frame len => exact execFrame_next hd
  case mute => exact execMute_next s
  case bassAck => exact h.execBassAck_next hd
  case midAck => exact ⟨_, execMidAck_enabled hd⟩
  case btnPoll l => exact h.execBtnPoll_next l
  case bandEval x => exact ⟨_, execBandEval_enabled hd⟩
  case sampleStep => exact h.execSampleStep_next
  all_goals exact ⟨_, rfl⟩

/-! ## The kept FRAMEs under an instruction -/

theorem execBtnPoll_heldFrames {l : Bool} (h : execBtnPoll l s = .next t) : t.heldFrames = s.heldFrames := by
  obtain ⟨-, rfl⟩ | ⟨-, rfl⟩ | ⟨-, rfl⟩ := execBtnPoll_cases h
  · obtain ⟨-, -, -, hheld, -⟩ := frame_timeoutDispatch s
    cases l <;> exact hheld
  · unfold State.pollPressed
    split
    · rfl
    · split <;> rfl
  · cases l <;> rfl

/-- Only a FRAME that finds P busy is kept; those that the cases do not name leave the kept FRAMEs by definition. -/
theorem exec_heldFrames (h : exec i s = .next t) :
    t.heldFrames = s.heldFrames ∨ ∃ len, i = .frame len ∧ t = s.holdFrame len := by
  cases i
  case frame len =>
    obtain ⟨-, -, rfl⟩ | ⟨-, -, -, -, rfl⟩ | ⟨-, rfl⟩ := execFrame_cases h
    · exact .inl rfl
    · exact .inl (s.acceptFrame_heldFrames len)
    · exact .inr ⟨len, rfl, rfl⟩
  case mute =>
    left
    obtain ⟨-, rfl⟩ | ⟨-, rfl⟩ := execMute_cases h
    · exact s.startMute_heldFrames
    · rfl
  case bassAck =>
    obtain ⟨-, -, rfl⟩ := execBassAck_cases h
    exact .inl s.offerMid_heldFrames
  case midAck =>
    obtain ⟨-, rfl⟩ := execMidAck_cases h
    exact .inl rfl
  case btnPoll l => exact .inl (execBtnPoll_heldFrames h)
  case encPoll a b =>
    left
    injection h with h
    rw [← h]
    split
    · obtain ⟨-, hheld, -⟩ := keepsPorts_pollEncoder s a b
      exact hheld
    · rfl
  case bandEval x =>
    obtain ⟨-, rfl⟩ := execBandEval_cases h
    exact .inl (s.writeBands_heldFrames x)
  case sampleStep =>
    left
    obtain ⟨-, -, rfl⟩ | ⟨-, rfl⟩ := execSampleStep_cases h
    · exact s.computeSample_heldFrames
    · rfl
  all_goals
    injection h with h
    exact .inl (h ▸ rfl)

theorem State.portsInv.keepFrame (h : s.portsInv) {len : BitVec 24} {data : List Byte} (hd : data.length = len.toNat) :
    ({ s with heldFrames := s.heldFrames ++ [⟨len, data⟩] } : State).portsInv := by
  intro c hc
  obtain hold | hnew := List.mem_append.mp hc
  · exact h c hold
  · obtain rfl := List.mem_singleton.mp hnew
    exact hd

theorem State.portsInv.exec (h : s.portsInv) (hd : DutyKept i s) (ht : Machine.exec i s = .next t) : t.portsInv := by
  obtain heq | ⟨len, rfl, rfl⟩ := exec_heldFrames ht
  · intro c hc
    exact h c (heq ▸ hc)
  · exact h.keepFrame hd

/-! ## The schedule prepares what the instruction needs -/

/-- The duties of an issued word are what its instruction needs once the word's bytes are on the port. -/
theorem dutyKept_of_dutifulWord {w : Word} {data : List Byte} (h : dutifulWord s w data) :
    ∃ i, decodeWord w = .ok i ∧ DutyKept i { s with dataPort := data } := by
  unfold dutifulWord at h
  cases hw : decodeWord w with
  | error r =>
    rw [hw] at h
    exact h.elim
  | ok i =>
    rw [hw] at h
    refine ⟨i, rfl, ?_⟩
    cases i
    case frame len => exact h
    case bassAck => exact h
    case midAck => exact h
    case bandEval x =>
      obtain ⟨-, -, -, -, hband, -⟩ := decodeWord_isOperation hw
      exact absurd rfl (hband x)
    all_goals trivial

theorem State.portsInv.dutifulNext_some (h : s.portsInv) {sig : Signal} (hd : decode sig = .ok i) (hi : DutyKept i s) :
    DutifulNext (some sig, s) :=
  ⟨h, fun _ heq => Option.some.inj heq ▸ ⟨i, hd, hi⟩⟩

theorem State.portsInv.dutifulNext_none (h : s.portsInv) : DutifulNext (none, s) := ⟨h, nofun⟩

/-- A kept FRAME is served with the LEN bytes that the port kept beside it. -/
theorem State.portsInv.serveFrame (h : s.portsInv) : DutifulNext (Machine.serveFrame s) := by
  unfold Machine.serveFrame
  split
  · next c rest _ hheld =>
    have hkept : ∀ d ∈ c :: rest, d.data.length = d.len.toNat := hheld ▸ h
    obtain ⟨hc, hrest⟩ := List.forall_mem_cons.mp hkept
    have hports : ({ s with heldFrames := rest, dataPort := c.data } : State).portsInv := hrest
    exact hports.dutifulNext_some (decode_encode_frame c.len) hc
  · exact h.dutifulNext_none

theorem State.portsInv.serveMute (h : s.portsInv) : DutifulNext (Machine.serveMute s) := by
  unfold Machine.serveMute
  split
  · next n _ _ =>
    have hports : ({ s with heldMutes := n } : State).portsInv := h
    exact hports.dutifulNext_some decode_encode_mute trivial
  · exact h.dutifulNext_none

/-- A FRAME behind a kept one is kept with its LEN bytes and the oldest is served; any other word is signalled. -/
theorem State.portsInv.issueWord (h : s.portsInv) {w : Word} {data : List Byte} (hd : dutifulWord s w data) :
    DutifulNext (Machine.issueWord w data s) := by
  obtain ⟨i, hw, hduty⟩ := dutyKept_of_dutifulWord hd
  unfold Machine.issueWord
  split
  · next len _ _ hframe _ _ =>
    injection hw.symm.trans hframe with hi
    subst hi
    exact (h.keepFrame hduty).serveFrame
  · have hports : ({ s with dataPort := data } : State).portsInv := h
    exact hports.dutifulNext_some (sig := .opw w) hw hduty

theorem State.portsInv.autonomous (h : s.portsInv) : DutifulNext (Machine.autonomous s) := by
  have hpick : ({ s with freePick := s.freePick + 1 } : State).portsInv := h
  unfold Machine.autonomous
  split
  · exact h.dutifulNext_some (sig := .selfStep) rfl trivial
  · exact h.serveFrame
  · exact h.serveMute
  · split
    · exact hpick.serveFrame
    · exact hpick.serveMute
  · exact h.dutifulNext_none

theorem State.portsInv.fetch (h : s.portsInv) (hd : s.dutiful) : DutifulNext (Machine.fetch s) := by
  have htaken (rest : List Event) : ({ s with agenda := rest } : State).portsInv := h
  unfold State.dutiful at hd
  unfold Machine.fetch
  split
  · exact h.autonomous
  · next w data rest ha =>
    rw [ha] at hd
    exact (htaken rest).issueWord hd
  · next a0 rest _ => exact (htaken rest).dutifulNext_some (sig := .resetPin true a0) (i := .reset a0) rfl trivial
  · next rest _ => exact (htaken rest).dutifulNext_some (sig := .selfStep) rfl trivial
  · next rest _ => exact (htaken rest).serveFrame
  · next rest _ => exact (htaken rest).serveMute

/-- Where the schedule's answer is dutiful, the step has a next state whose ports are well-formed. -/
theorem DutifulNext.step (h : DutifulNext (fetch s)) (hinv : s.Inv) : ∃ t, Machine.step s = .next t ∧ t.portsInv := by
  obtain ⟨hports, hsig⟩ := h
  cases hf : (fetch s).1 with
  | none => exact ⟨(fetch s).2, step_of_fetch_none (Prod.ext hf rfl), hports⟩
  | some sig =>
    obtain ⟨i, hdec, hduty⟩ := hsig sig hf
    obtain ⟨t, ht⟩ := hinv.fetch.exec_next hduty
    have hstep : Machine.step s = exec i (fetch s).2 :=
      (step_of_fetch (Prod.ext hf rfl)).trans (runSignal_of_decode_ok hdec)
    exact ⟨t, hstep.trans ht, hports.exec hduty ht⟩

end

/-- Settles O59: the schedule prepares what the next instruction needs, an instruction that finds it is not refused, and the
machine's invariant is kept by every step. -/
theorem dutifulStepIsNeverRefused : Obligations.DutifulStepIsNeverRefused := by
  intro s hinv hports hd
  obtain ⟨t, ht, hports'⟩ := (hports.fetch hd).step hinv
  exact ⟨t, ht, stepKeepsTheInvariant s t hinv ht, hports'⟩

end Sys2Proof.Machine
end

section
/-! SUPPORT. What RESET writes (70_reset_and_hazards.md R280, R281), and that the state at power-up meets the invariants. -/

namespace Sys2Proof.Machine

/-! ## The buffers after a RESET -/

@[simp] theorem State.resetRegisters_buf (s : State) (a0 : Bool) (b : Buf) : (s.resetRegisters a0).buf b = [] := by
  cases b <;> rfl

/-- No byte is listed after a RESET, so each is its free byte (10_state.md R27, R28). -/
theorem State.readByte_resetRegisters (s : State) (a0 : Bool) (b : Buf) (off : Nat) :
    (s.resetRegisters a0).readByte b off = Config.freeBufByte (s.resetRegisters a0).freeBuf b off := by
  rw [State.readByte, State.resetRegisters_buf]
  rfl

/-- Settles O51: the effect is `resetRegisters`, which writes each register with its constant of the reset table and lists no
byte. -/
theorem resetGivesEveryRegisterItsValue : Obligations.ResetGivesEveryRegisterItsValue := fun s a0 =>
  ⟨s.resetRegisters a0, rfl,
    -- P and C1, then C4, E and B
    rfl, rfl, rfl, rfl, rfl, rfl,
    rfl, rfl, rfl, rfl, rfl, rfl, rfl,
    rfl, rfl, rfl,
    rfl, rfl, rfl, rfl,
    -- the buffers, the ports, and the history with the output lines
    s.readByte_resetRegisters a0,
    rfl, rfl, rfl, rfl,
    rfl, rfl, rfl⟩

/-! ## The state at power-up -/

/-- Power-up leaves what a RESET leaves, but for the counter of the free contents (log 4). -/
theorem State.resetRegisters_reset : State.reset.resetRegisters Config.lineAAtReset = State.reset.withFreeBuf 1 := rfl

/-- The invariant does not speak of the counter of the free contents, so it holds at power-up as after a RESET. -/
theorem State.reset_inv : State.reset.Inv := by
  have h : (State.reset.withFreeBuf 1).Inv :=
    State.resetRegisters_reset ▸ State.Inv.resetRegisters State.reset Config.lineAAtReset
  exact h

/-- `LP_Y` and `PVF` start as +0.0 (70_reset_and_hazards.md R281). -/
theorem State.reset_numericInv : State.reset.NumericInv :=
  State.reset.numericInv_iff.mpr ⟨.zero _, fpInUnit_zero⟩

/-- With an empty history there is no pair yet, and an idle P waits for no acknowledgement. -/
theorem State.reset_handshake : State.reset.handshake := ⟨[], rfl⟩

/-- Settles O56: one lemma per invariant; no FRAME is kept at power-up. -/
theorem resetStateMeetsTheInvariants : Obligations.ResetStateMeetsTheInvariants :=
  ⟨State.reset_inv, State.reset_numericInv, State.reset_handshake, nofun⟩

end Sys2Proof.Machine
end
